-- ==== Sys2Proof/Word.lean ====
section
/-!
DEFINITION. The word types of the PSG: the widths of 00_scope.md rule R5 under their names, and nothing else.
Bit 0 is the least significant bit of every word (R6); all words are unsigned.
-/

namespace Sys2Proof

/-- A byte of the write port, 8 bits (R5, R42). -/
abbrev Byte := BitVec 8

/-- The digital sample and the debug control word, 16 bits (R5, R42). -/
abbrev Half := BitVec 16

/-- The bits of an IEEE 754 binary32 value (R7, R62). -/
abbrev F32 := BitVec 32

/-- An attenuation or output level, 4 bits: 0 is loudest, 15 is silent (R13). -/
abbrev Level := BitVec 4

/-- A period or a period counter, 10 bits (R20, R22). -/
abbrev Period := BitVec 10

/-- One flag bit per channel, bit i for channel i (R14). -/
abbrev Flags4 := BitVec 4

/-- A channel number: 0 to 2 are the tone channels, 3 is the noise channel (R5, R14). -/
abbrev Channel := Fin 4

end Sys2Proof
end

