-- ==== Sys2Proof/Machine/Flags.lean ====
section
/-!
DEFINITION. The PSG's flags.  It has no condition codes (10_state.md rule R37): its flags are the polarities `sign`, the
pending flips `inverse` and the two-bit edge history `noise_update`.  Every flag computation is here.
-/

namespace Sys2Proof.Machine

/-- Bit `i` of a per-channel flag field (R14). -/
def flag (f : Flags4) (i : Channel) : Bool := f.getLsbD i.val

/-- A flag field with bit `i` set and the other bits kept (R81). -/
def setFlag (f : Flags4) (i : Channel) : Flags4 := f ||| (1#4 <<< i.val)

/-- The polarities after a resolution: every pending flip applied by exclusive or (R80). -/
def resolveSign (sign inverse : Flags4) : Flags4 := sign ^^^ inverse

/-- The edge history after a sample: the tap enters at bit 0 and bit 1 is lost (R77). -/
def pushEdge (history : BitVec 2) (tap : Bool) : BitVec 2 := history.extractLsb' 0 1 ++ BitVec.ofBool tap

/-- A rising transition: the tap was 0 at the previous tick and is 1 now (R78). -/
def risingEdge (history : BitVec 2) : Bool := history == 0b01#2

end Sys2Proof.Machine
end

