-- ==== Sys2Proof/Config.lean ====
section
/-!
DEFINITION. What is fixed for one PSG and is no state: the named parameters of 00_scope.md rule R5 (and the reset value of
`sign`, which 93_implementation_defined.md I1 makes a parameter), as one record every operation takes; and the values the
spec leaves open, as constants with no body.  The values this spec gives the parameters are in Machine/Params.lean.
-/

namespace Sys2Proof

/-- The named parameters of R5 and I1.  Which values are legal is `Machine.paramsLegal`. -/
structure Config.Params where
  /-- `NOISE_FB_BIT`: the bit of the noise-control byte that selects the tap mode, 1 or 2 (D6, I5). -/
  noiseFbBit : Nat
  /-- `NOISE_WHITE_VALUE`: the value of `noise_type` that means white noise (D7, I6). -/
  noiseWhiteValue : BitVec 1
  /-- `NOISE_BASE_PERIOD`: 1 to 0xFF, so that four times it fits in 10 bits (D5, I4). -/
  noiseBasePeriod : BitVec 8
  /-- `RESET_LATCH`: 6 or 7 (D3, I7). -/
  resetLatch : BitVec 3
  /-- The reset value of `sign` (D8, I1). -/
  resetSign : Flags4
  /-- `VOLUME_LUT`: the 17-entry attenuation table (R32, D14, I2). -/
  volumeLut : Vector F32 17
  deriving DecidableEq, Repr

/-- FREE VALUE (DESIGN CHOICE, log entry 10; safe).  Entry `k` of the attenuation table, which the spec leaves OPEN (D14).
`Machine.volumeLut` keeps of it what R32's constraint allows. -/
opaque Config.freeLutEntry : Nat → BitVec 32

/-- FREE VALUE (DESIGN CHOICE, log entry 12; safe).  The sign and the payload of the NaN that an addition of these two operands gives:
IEEE 754 leaves them open.  With a legal table no NaN arises (R97). -/
opaque Config.freeNanBits : F32 → F32 → BitVec 23

/-- `CHIP_CLOCK_HZ` (D22, I10), OPEN: no rule reads it, and no definition of this model does (log entry 14; safe). -/
opaque Config.chipClockHz : ℝ

/-- What R5 asks of `CHIP_CLOCK_HZ`: it is positive.  Nothing rests on it. -/
def Config.chipClockPositive : Prop := 0 < Config.chipClockHz

end Sys2Proof
end

