-- ==== Sys2Proof/Machine/Operands.lean ====
section
/-!
DEFINITION. The operand forms of the PSG (30_encoding.md): truncation of a host integer, the fields of a written byte, the
assembly of a tone period, the noise-control operand, the debug word, the packed sample word and the debug permutation.
-/

namespace Sys2Proof.Machine

/-- A host integer at WRITE, truncated to 8 bits (R42, D26). -/
def truncByte (n : Nat) : Byte := BitVec.ofNat 8 n

/-- A host integer at SET_DEBUG, truncated to 16 bits (R42, D26). -/
def truncHalf (n : Nat) : Half := BitVec.ofNat 16 n

/-- `b[7]`: the byte is a latch byte (R51, R52). -/
def isLatchByte (b : Byte) : Bool := b.getLsbD 7

/-- `b[6:4]`, what a latch byte stores in `latch` (R51, R64). -/
def latchField (b : Byte) : BitVec 3 := b.extractLsb' 4 3

/-- `latch[2:1]` as a channel number (R17). -/
def latchChannel (latch : BitVec 3) : Channel := (latch.extractLsb' 1 2).toFin

/-- `latch[0]`: 1 selects a volume register (R17). -/
def latchIsVolume (latch : BitVec 3) : Bool := latch.getLsbD 0

/-- A two-bit channel field as a channel number. -/
def channelOf (ch : BitVec 2) : Channel := ch.toFin

/-- A tone period after a latch byte: the low nibble replaced, the upper six bits kept (R54, R66). -/
def periodWithLow (old : Period) (n : BitVec 4) : Period := old.extractLsb' 4 6 ++ n

/-- A tone period after a data byte: the upper six bits replaced, the low nibble kept (R54, R67). -/
def periodWithHigh (old : Period) (h : BitVec 6) : Period := h ++ old.extractLsb' 0 4

/-- `b[3:0]`: a period's low nibble or an attenuation (R54, R56). -/
def lowNibble (b : Byte) : BitVec 4 := b.extractLsb' 0 4

/-- `b[5:0]`: a period's upper six bits (R54). -/
def lowSix (b : Byte) : BitVec 6 := b.extractLsb' 0 6

/-- `b[2:0]`: the noise configuration a noise-control byte stores (R55, D9). -/
def noiseField (b : Byte) : BitVec 3 := b.extractLsb' 0 3

/-- `noise_data[1:0]`, the rate code (R27, R55). -/
def rateCode (noiseData : BitVec 3) : BitVec 2 := noiseData.extractLsb' 0 2

/-- The noise channel's period for a rate code: the base period times 1, 2 or 4, or 0 for code 3 (R55, R68). -/
def noisePeriod (p : Config.Params) (code : BitVec 2) : Period :=
  if code = 0 then p.noiseBasePeriod.setWidth 10
  else if code = 1 then p.noiseBasePeriod.setWidth 10 <<< 1
  else if code = 2 then p.noiseBasePeriod.setWidth 10 <<< 2
  else 0

/-- `w[11:9]` of a debug word, what SET_DEBUG stores in `debug` (R60, R98). -/
def debugField (w : Half) : BitVec 3 := w.extractLsb' 9 3

/-- `debug[0]`: test mode is enabled (R31). -/
def testMode (d : BitVec 3) : Bool := d.getLsbD 0

/-- The channel permutation `PERM`, in the order 0, 2, 1, 3 (R33). -/
def perm (k : BitVec 2) : Channel :=
  if k = 0 then 0 else if k = 1 then 2 else if k = 2 then 1 else 3

/-- The channel test mode isolates: `PERM[debug[2:1]]` (R31, R96). -/
def isolated (d : BitVec 3) : Channel := perm (d.extractLsb' 1 2)

/-- The digital sample word: channel 0 in bits 15 to 12, down to channel 3 in bits 3 to 0 (R62, R95). -/
def packSample (output : Vector Level 4) : Half := output[0] ++ output[1] ++ output[2] ++ output[3]

end Sys2Proof.Machine
end

