-- ==== Sys2Proof/Machine/Float32.lean ====
section
/-!
DEFINITION. `f32_add` (00_scope.md rule R7): IEEE 754 binary32 addition, rounding to nearest, ties to even.
A finite value is an integer multiple of 2^-149, so the sum is computed exactly on integers and narrowed once at the end.
-/

namespace Sys2Proof.Machine

/-- The biased exponent field. -/
def f32Exp (x : F32) : Nat := (x.extractLsb' 23 8).toNat

/-- The fraction field. -/
def f32Frac (x : F32) : Nat := (x.extractLsb' 0 23).toNat

/-- The value is finite: neither an infinity nor a NaN. -/
def f32Finite (x : F32) : Bool := f32Exp x != 255

/-- The value is a NaN. -/
def f32IsNan (x : F32) : Bool := f32Exp x == 255 && f32Frac x != 0

/-- Negative zero. -/
def f32NegZero : F32 := 0x80000000#32

/-- The magnitude of a finite value, in units of 2^-149. -/
def f32Magnitude (x : F32) : Nat :=
  if f32Exp x = 0 then f32Frac x else (2 ^ 23 + f32Frac x) * 2 ^ (f32Exp x - 1)

/-- A finite value, in units of 2^-149. -/
def f32Scaled (x : F32) : Int := if x.msb then -(f32Magnitude x : Int) else f32Magnitude x

/-- The bits, as a number, of the magnitude `n` (in units of 2^-149) rounded to nearest, ties to even: `k` low bits are
rounded away, and the exponent field and the significand are added, so that a carry out of the significand raises the
exponent.  What rounds past the largest finite value is an infinity. -/
def f32RoundBits (n : Nat) : Nat :=
  let k := n.log2 - 23
  let q := n / 2 ^ k
  let r := n % 2 ^ k
  let up := 2 ^ k < 2 * r ∨ (2 * r = 2 ^ k ∧ q % 2 = 1)
  min (k * 2 ^ 23 + q + (if up then 1 else 0)) 0x7F800000

/-- A magnitude with a sign, rounded into binary32. -/
def f32Round (negative : Bool) (n : Nat) : F32 :=
  BitVec.ofBool negative ++ BitVec.ofNat 31 (f32RoundBits n)

/-- A quiet NaN whose sign and payload are free (log entry 12). -/
def f32Nan (x y : F32) : F32 :=
  (Config.freeNanBits x y).extractLsb' 22 1 ++ 0x1FF#9 ++ (Config.freeNanBits x y).extractLsb' 0 22

/-- The exact sum of two finite values, rounded.  An exact zero is +0.0, unless both operands are negative. -/
def f32AddFinite (x y : F32) : F32 :=
  let z := f32Scaled x + f32Scaled y
  if z = 0 then (if x.msb && y.msb then f32NegZero else 0)
  else f32Round (decide (z < 0)) z.natAbs

/-- `f32_add` (R7, R97): a NaN operand or a sum of opposite infinities gives a NaN, an infinity absorbs a finite value. -/
def f32Add (x y : F32) : F32 :=
  if f32IsNan x || f32IsNan y then f32Nan x y
  else if !f32Finite x then (if !f32Finite y && x != y then f32Nan x y else x)
  else if !f32Finite y then y
  else f32AddFinite x y

end Sys2Proof.Machine
end

