-- ==== Sys2Proof/Machine/Params.lean ====
section
/-!
DEFINITION. The values this spec gives the parameters of 00_scope.md rule R5, what makes a parameter record legal, and the
open attenuation table under the constraint of 10_state.md rule R32.
-/

namespace Sys2Proof.Machine

/-- R32's constraint on the attenuation table: every entry is finite and not -0.0, and entries 0 to 15 do not rise. -/
def lutLegal (t : Vector F32 17) : Bool :=
  t.toList.all (fun x => f32Finite x && x != f32NegZero) &&
    (List.range 15).all (fun k => decide (f32Scaled (t.toList.getD k 0) ≥ f32Scaled (t.toList.getD (k + 1) 0)))

/-- The table's entries as the free value gives them. -/
def rawLut : Vector F32 17 := Vector.ofFn fun k => Config.freeLutEntry k.val

/-- `VOLUME_LUT`, OPEN (D14): the free table where it is legal, so every legal table is a possible value.  For the values of
the free table that R32 excludes it is the all-zero table, which is legal too; no proof can tell which it is (log entry 10). -/
def volumeLut : Vector F32 17 := if lutLegal rawLut then rawLut else Vector.replicate 17 0

/-- The values this spec gives the parameters (R5): D6, D7, D5, D3, D8, and the open table (D14).  Log entries 5 to 10. -/
def params : Config.Params where
  noiseFbBit := 1
  noiseWhiteValue := 1
  noiseBasePeriod := 0x10
  resetLatch := 6
  resetSign := 0b0000
  volumeLut := volumeLut

/-- The parameter records R5, R21 and R32 allow. -/
def paramsLegal (p : Config.Params) : Bool :=
  (p.noiseFbBit == 1 || p.noiseFbBit == 2) && p.noiseBasePeriod != 0 &&
    (p.resetLatch == 6 || p.resetLatch == 7) && lutLegal p.volumeLut

end Sys2Proof.Machine
end

