-- ==== Sys2Proof/Syntax.lean ====
section
/-!
DEFINITION. The PSG's transactions as syntax: a raw call of the host (a tag and an integer, 30_encoding.md rule R50), and the
eleven rows of opcode_table.json as constructors.  Fields hold every bit of the encoding, the ignored ones too.
-/

namespace Sys2Proof

/-- One call as the host makes it: the transaction tag of R50 and the integer it passes.  WRITE and SET_DEBUG read the
integer, truncated to 8 or 16 bits (R42); the other transactions have no operand. -/
structure RawTxn where
  tag : BitVec 3
  operand : Nat
  deriving DecidableEq, Repr

/-- The rows of opcode_table.json. -/
inductive Instr where
  /-- LATCH_TONE, byte `1 ch 0 nnnn` with `ch` not 3 (R66). -/
  | latchTone (ch : BitVec 2) (n : BitVec 4)
  /-- LATCH_NOISE, byte `1110 x ccc`, `x` ignored (R70). -/
  | latchNoise (x : BitVec 1) (c : BitVec 3)
  /-- LATCH_VOL, byte `1 ch 1 aaaa` (R72). -/
  | latchVol (ch : BitVec 2) (a : BitVec 4)
  /-- DATA_TONE, byte `0 x hhhhhh`, `x` ignored, for `latch` 0, 2 or 4 (R67). -/
  | dataTone (x : BitVec 1) (h : BitVec 6)
  /-- DATA_NOISE, byte `0 xxxx ccc`, `x` ignored, for `latch` 6 (R71). -/
  | dataNoise (x : BitVec 4) (c : BitVec 3)
  /-- DATA_VOL, byte `0 xxx aaaa`, `x` ignored, for an odd `latch` (R73). -/
  | dataVol (x : BitVec 3) (a : BitVec 4)
  /-- RESET, tag 0 (R115). -/
  | reset
  /-- TICK, tag 2 (R76). -/
  | tick
  /-- READ_DIGITAL, tag 3 (R95). -/
  | readDigital
  /-- READ_ANALOG, tag 4 (R96). -/
  | readAnalog
  /-- SET_DEBUG, tag 5, with its whole 16-bit word (R98). -/
  | setDebug (w : Half)
  deriving DecidableEq, Repr

end Sys2Proof
end

