-- ==== Sys2Proof/Machine/State.lean ====
section
/-!
DEFINITION. The machine's state as plain data: the chip's one record with the fields of 10_state.md rules R17 to R31, and
beside it the two things the interface needs (the host's calls and the last Result); the reset state; how a step can stop.
-/

namespace Sys2Proof.Machine

/-- The PSG's state record: "the fields of rules R17 to R31 and nothing else" (R15). -/
structure Chip where
  /-- The register the last latch byte selected (R17). -/
  latch : BitVec 3
  /-- The attenuations (R18). -/
  volume : Vector Level 4
  /-- The cache of output levels, written only by REFRESH and RESET (R19). -/
  output : Vector Level 4
  /-- The programmed periods; entry 3 is the noise channel's period code (R20, R21). -/
  freq : Vector Period 4
  /-- The running period counters (R22). -/
  counter : Vector Period 4
  /-- The oscillator polarities (R23). -/
  sign : Flags4
  /-- The pending polarity flips (R24). -/
  inverse : Flags4
  /-- The round-robin selector (R25). -/
  cycle : BitVec 2
  /-- The LFSR, stored in 16 bits (R26, C2). -/
  noise : BitVec 16
  /-- The noise configuration (R27). -/
  noiseData : BitVec 3
  /-- The feedback-tap mode (R28). -/
  noiseType : BitVec 1
  /-- The reset-pending delay line (R29). -/
  noiseReset : BitVec 2
  /-- The edge-detect history (R30). -/
  noiseUpdate : BitVec 2
  /-- The spec's `debug`, the test-mode selector (R31). -/
  debugReg : BitVec 3
  deriving DecidableEq, Repr

/-- What a host operation returns (R8): nothing, a 16-bit word, or a binary32 value. -/
inductive Result where
  | nothing
  | word (w : Half)
  | single (x : F32)
  deriving DecidableEq, Repr

/-- The calls the host makes at one moment: none is an idle moment (R113), one is a serialized transaction (R47), two or
more are concurrent calls (I9). -/
abbrev CallSlot := List RawTxn

/-- The machine: the chip, and its interface.  `calls` and `result` are the MODEL's own fields (log entries 1 and 2). -/
structure State where
  /-- The chip's record (R15). -/
  chip : Chip
  /-- The call slots the host has yet to make, the next one first (R47). -/
  calls : List CallSlot
  /-- The Result of the last transaction (R8). -/
  result : Result
  deriving DecidableEq, Repr

/-- No transaction faults (R105): "A model gives the PSG no fault outcome" (R108).  No constructor, so no meaning can raise one. -/
inductive Fault where
  deriving DecidableEq, Repr

/-- Why a step has no meaning. -/
inductive Refusal where
  /-- Raised by an arm of `exec` whose instruction has no meaning yet.  Safe.  No arm is left so. -/
  | notModelled (mnemonic : String)
  /-- Raised by `step` for a call whose tag is 6 or 7: "Tags 6 and 7 do not exist.  A decoder of tags refuses them" (R50).  Safe. -/
  | badTag (tag : BitVec 3)
  /-- Raised by `step` for two or more calls at one moment: "A model gives concurrent transactions no meaning and refuses
  them" (R47, D23).  Safe. -/
  | concurrentCalls
  deriving DecidableEq, Repr

/-- The chip after RESET, under given parameters: every field at the value its rule states (R115). -/
def Chip.resetWith (p : Config.Params) : Chip where
  latch := p.resetLatch
  volume := Vector.replicate 4 15
  output := Vector.replicate 4 15
  freq := #v[0, 0, 0, p.noiseBasePeriod.setWidth 10]
  counter := Vector.replicate 4 0
  sign := p.resetSign
  inverse := 0b1111
  cycle := 0
  noise := 0
  noiseData := 0
  noiseType := 0
  noiseReset := 0
  noiseUpdate := 0
  debugReg := 0

/-- The power-on state: the chip as RESET leaves it (R116, D18), no call made yet, and nothing returned yet. -/
def State.reset : State where
  chip := Chip.resetWith params
  calls := []
  result := .nothing

end Sys2Proof.Machine
end

