-- ==== Sys2Proof/Machine/Ops.lean ====
section
/-!
DEFINITION. The named operations over the chip's record: the parts of WRITE (40_register_interface.md), the steps of TICK
(41_period_counter_and_noise.md), REFRESH and the sample sums (42_sample_synthesizer.md), and the end of every transaction.
The PSG takes no exception and returns from none (60_exceptions.md rules R105, R108), so no such operation stands here.
-/

namespace Sys2Proof.Machine

/-- The end of every transaction: the chip's next record and the Result; the host's later calls are kept (R8). -/
def complete (c : Chip) (r : Result) (s : State) : Host.Outcome State Fault Refusal :=
  .next { s with chip := c, result := r }

/-! ### WRITE -/

/-- WRITE, step 1: a latch byte selects a register, a data byte leaves the selection (R64). -/
def selectRegister (b : Byte) (c : Chip) : Chip :=
  { c with latch := if isLatchByte b then latchField b else c.latch }

/-- The volume effect, for latch bytes and data bytes alike (R69). -/
def writeVolume (b : Byte) (c : Chip) : Chip :=
  { c with volume := c.volume.set (latchChannel c.latch) (lowNibble b) }

/-- The tone period effect: a latch byte gives the low nibble (R66), a data byte the upper six bits (R67). -/
def writePeriod (b : Byte) (c : Chip) : Chip :=
  let old := c.freq[latchChannel c.latch]
  let new := if isLatchByte b then periodWithLow old (lowNibble b) else periodWithHigh old (lowSix b)
  { c with freq := c.freq.set (latchChannel c.latch) new }

/-- The noise-control effect: the configuration, the tap mode, a request for an LFSR clear, and the period (R68). -/
def noiseControl (p : Config.Params) (b : Byte) (c : Chip) : Chip :=
  { c with
    noiseData := noiseField b
    noiseType := BitVec.ofBool (b.getLsbD p.noiseFbBit)
    noiseReset := c.noiseReset ||| 0b01
    freq := c.freq.set 3 (noisePeriod p (rateCode (noiseField b))) }

/-- WRITE, step 2: dispatch on the updated `latch` (R65). -/
def writeRegister (p : Config.Params) (b : Byte) (c : Chip) : Chip :=
  if latchIsVolume c.latch then writeVolume b c
  else if latchChannel c.latch = 3 then noiseControl p b c
  else writePeriod b c

/-- WRITE of a byte: both steps, "the full pseudocode of WRITE" (R65). -/
def writeByte (p : Config.Params) (b : Byte) (c : Chip) : Chip :=
  writeRegister p b (selectRegister b c)

/-! ### TICK -/

/-- The noise clock tap: `sign[2]` under rate code 3, else `sign[3]` (R77, C1, D12). -/
def noiseTap (c : Chip) : Bool :=
  if rateCode c.noiseData = 3 then flag c.sign 2 else flag c.sign 3

/-- Step 1a: the tap enters the edge history (R77). -/
def sampleTap (c : Chip) : Chip :=
  { c with noiseUpdate := pushEdge c.noiseUpdate (noiseTap c) }

/-- The bit a shift injects: 1 from the all-zero low 15 bits, or in white mode from the taps 15 and 12 (R78, C7, D13). -/
def injectedBit (p : Config.Params) (c : Chip) : Bool :=
  decide (c.noise.extractLsb' 0 15 = 0) ||
    (decide (c.noiseType = p.noiseWhiteValue) && (c.noise.getLsbD 15 ^^ c.noise.getLsbD 12))

/-- Step 1b: on a rising transition, and only then, the LFSR shifts left by one (R78). -/
def shiftNoise (p : Config.Params) (c : Chip) : Chip :=
  { c with noise :=
      if risingEdge c.noiseUpdate then c.noise.extractLsb' 0 15 ++ BitVec.ofBool (injectedBit p c) else c.noise }

/-- Step 1c: the delayed LFSR clear, which overrides a shift of the same tick (R79, C3, D11). -/
def clearNoise (c : Chip) : Chip :=
  { c with noise := if c.noiseReset.getLsbD 1 then 0 else c.noise }

/-- Step 2: at a round boundary the pending flips are applied and cleared (R80). -/
def resolvePolarity (c : Chip) : Chip :=
  { c with
    sign := if c.cycle = 0 then resolveSign c.sign c.inverse else c.sign
    inverse := if c.cycle = 0 then 0 else c.inverse }

/-- The counter of the channel `cycle` has reached or exceeded its period (R81). -/
def periodReached (c : Chip) : Bool :=
  decide (c.freq[channelOf c.cycle] ≤ c.counter[channelOf c.cycle])

/-- Step 3: the period count of the channel `cycle` (R81). -/
def countPeriod (c : Chip) : Chip :=
  let i := channelOf c.cycle
  { c with
    counter := c.counter.set i (if periodReached c then 0 else c.counter[i] + 1)
    inverse := if periodReached c then setFlag c.inverse i else c.inverse }

/-- Step 4: the next channel, and the reset-pending line shifted (R82). -/
def advance (c : Chip) : Chip :=
  { c with
    cycle := c.cycle + 1
    noiseReset := c.noiseReset.extractLsb' 0 1 ++ 0#1 }

/-- Step 1 of TICK, noise clocking (R76). -/
def clockNoise (p : Config.Params) (c : Chip) : Chip := clearNoise (shiftNoise p (sampleTap c))

/-- The per-cycle advance: the four steps in order, each seeing the writes of the steps before it (R76). -/
def tickChip (p : Config.Params) (c : Chip) : Chip := advance (countPeriod (resolvePolarity (clockNoise p c)))

/-! ### The sample synthesizer -/

/-- The bit that gates a channel: its polarity, and bit 14 of the LFSR for the noise channel (R93). -/
def gate (c : Chip) (i : Channel) : Bool := if i = 3 then c.noise.getLsbD 14 else flag c.sign i

/-- The level REFRESH gives a channel (R93). -/
def levelOf (c : Chip) (i : Channel) : Level :=
  if testMode c.debugReg then c.volume[i] else if gate c i then c.volume[i] else 15

/-- REFRESH: the cache recomputed; no other field is written (R93, R94). -/
def refresh (c : Chip) : Chip :=
  { c with output := #v[levelOf c 0, levelOf c 1, levelOf c 2, levelOf c 3] }

/-- The digital sample of a refreshed chip (R95). -/
def digitalSample (c : Chip) : Half := packSample c.output

/-- The table entry for an output level (R96, R104). -/
def lutLevel (p : Config.Params) (v : Level) : F32 :=
  p.volumeLut[v.toNat]'(Nat.lt_of_lt_of_le v.isLt (by decide))

/-- The calibration entry, table index 16 (R32, R96). -/
def lutCalibration (p : Config.Params) : F32 := p.volumeLut[16]

/-- The term of a channel in the analog sum of a refreshed chip: in test mode every channel but the isolated one gives the
calibration entry (R96). -/
def analogTerm (p : Config.Params) (c : Chip) (i : Channel) : F32 :=
  if testMode c.debugReg then
    if i = isolated c.debugReg then lutLevel p c.output[i] else lutCalibration p
  else lutLevel p c.output[i]

/-- The analog sample of a refreshed chip: four additions in channel order from +0.0 (R96, R97, D15). -/
def analogSample (p : Config.Params) (c : Chip) : F32 :=
  f32Add (f32Add (f32Add (f32Add 0 (analogTerm p c 0)) (analogTerm p c 1)) (analogTerm p c 2)) (analogTerm p c 3)

/-- SET_DEBUG's effect on the record (R98). -/
def setDebugField (w : Half) (c : Chip) : Chip := { c with debugReg := debugField w }

end Sys2Proof.Machine
end

