-- ==== Sys2Proof/Machine/Reset.lean ====
section
/-!
DEFINITION. The meaning of RESET (70_reset_and_hazards.md rule R115).
-/

namespace Sys2Proof.Machine

/-- RESET: every field of the chip's record gets its reset value; nothing is read (R115). -/
def execReset (s : State) : Host.Outcome State Fault Refusal :=
  complete (Chip.resetWith params) .nothing s

end Sys2Proof.Machine
end

