-- ==== Sys2Proof/Machine/Synth.lean ====
section
/-!
DEFINITION. The meanings of the sample synthesizer (42_sample_synthesizer.md): the two reads, each after its own REFRESH,
and SET_DEBUG.
-/

namespace Sys2Proof.Machine

/-- READ_DIGITAL: REFRESH, then the packed word (R95). -/
def execReadDigital (s : State) : Host.Outcome State Fault Refusal :=
  complete (refresh s.chip) (.word (digitalSample (refresh s.chip))) s

/-- READ_ANALOG: REFRESH, then the binary32 sum (R96). -/
def execReadAnalog (s : State) : Host.Outcome State Fault Refusal :=
  complete (refresh s.chip) (.single (analogSample params (refresh s.chip))) s

/-- SET_DEBUG: `debug <- w[11:9]` (R98). -/
def execSetDebug (w : Half) (s : State) : Host.Outcome State Fault Refusal :=
  complete (setDebugField w s.chip) .nothing s

end Sys2Proof.Machine
end

