-- ==== Sys2Proof/Machine/Tick.lean ====
section
/-!
DEFINITION. The meaning of TICK (41_period_counter_and_noise.md rule R76).
-/

namespace Sys2Proof.Machine

/-- TICK: the per-cycle advance; it returns nothing (R76, R39). -/
def execTick (s : State) : Host.Outcome State Fault Refusal :=
  complete (tickChip params s.chip) .nothing s

end Sys2Proof.Machine
end

