-- ==== Sys2Proof/WellFormed.lean ====
section
/-!
DEFINITION. Which terms of Instr are instructions of the table: `wellFormed` checks the operand ranges, `fitsLatch` the
table's condition on the decoding mode `latch` (30_encoding.md rule R53).
-/

namespace Sys2Proof

/-- The one operand the table restricts: the channel of LATCH_TONE is a tone channel, 0 to 2 (R66). -/
def Instr.wellFormed : Instr → Bool
  | .latchTone ch _ => ch != 3
  | .latchNoise _ _ => true
  | .latchVol _ _ => true
  | .dataTone _ _ => true
  | .dataNoise _ _ => true
  | .dataVol _ _ => true
  | .reset => true
  | .tick => true
  | .readDigital => true
  | .readAnalog => true
  | .setDebug _ => true

/-- The value of `latch` under which the decoder reads this row (R53): a data byte's row depends on it, no other row does. -/
def Instr.fitsLatch (latch : BitVec 3) : Instr → Bool
  | .latchTone _ _ => true
  | .latchNoise _ _ => true
  | .latchVol _ _ => true
  | .dataTone _ _ => latch == 0 || latch == 2 || latch == 4
  | .dataNoise _ _ => latch == 6
  | .dataVol _ _ => latch == 1 || latch == 3 || latch == 5 || latch == 7
  | .reset => true
  | .tick => true
  | .readDigital => true
  | .readAnalog => true
  | .setDebug _ => true

end Sys2Proof
end

