-- ==== Sys2Proof/Decode.lean ====
section
/-!
DEFINITION. The decoder of 30_encoding.md: the tags of rule R50, the six forms of a written byte of rule R53; and after it
the encoder, written from the same tables; and the reading of a word as opcode_table.json numbers its bits.
-/

namespace Sys2Proof

open Sys2Proof.Machine

/-- Why a call decodes to no instruction: its tag is 6 or 7, which do not exist (R50). -/
inductive DecodeReject where
  | badTag (tag : BitVec 3)
  deriving DecidableEq, Repr

/-- The form of a written byte, under the value of `latch` before it (R53).  Total over all bytes and all latch values. -/
def decodeByte (latch : BitVec 3) (b : Byte) : Instr :=
  if isLatchByte b then
    if b.getLsbD 4 then .latchVol (b.extractLsb' 5 2) (b.extractLsb' 0 4)
    else if b.extractLsb' 5 2 = 3 then .latchNoise (b.extractLsb' 3 1) (b.extractLsb' 0 3)
    else .latchTone (b.extractLsb' 5 2) (b.extractLsb' 0 4)
  else if latchIsVolume latch then .dataVol (b.extractLsb' 4 3) (b.extractLsb' 0 4)
  else if latch.extractLsb' 1 2 = 3 then .dataNoise (b.extractLsb' 3 4) (b.extractLsb' 0 3)
  else .dataTone (b.extractLsb' 6 1) (b.extractLsb' 0 6)

/-- The instruction a host call is, under the current `latch` (R50, R53).  Operands wider than the port are truncated (R42);
a transaction without an operand ignores the integer. -/
def decodeTxn (latch : BitVec 3) (t : RawTxn) : Except DecodeReject Instr :=
  if t.tag = 0 then .ok .reset
  else if t.tag = 1 then .ok (decodeByte latch (truncByte t.operand))
  else if t.tag = 2 then .ok .tick
  else if t.tag = 3 then .ok .readDigital
  else if t.tag = 4 then .ok .readAnalog
  else if t.tag = 5 then .ok (.setDebug (truncHalf t.operand))
  else .error (.badTag t.tag)

/-- The byte `1 ch 0 nnnn` (R51, R66). -/
def latchToneByte (ch : BitVec 2) (n : BitVec 4) : Byte := 1#1 ++ ch ++ 0#1 ++ n

/-- The byte `1110 x ccc` (R51, R70). -/
def latchNoiseByte (x : BitVec 1) (c : BitVec 3) : Byte := 0b1110#4 ++ x ++ c

/-- The byte `1 ch 1 aaaa` (R51, R72). -/
def latchVolByte (ch : BitVec 2) (a : BitVec 4) : Byte := 1#1 ++ ch ++ 1#1 ++ a

/-- The byte `0 x hhhhhh` (R52, R67). -/
def dataToneByte (x : BitVec 1) (h : BitVec 6) : Byte := 0#1 ++ x ++ h

/-- The byte `0 xxxx ccc` (R52, R71). -/
def dataNoiseByte (x : BitVec 4) (c : BitVec 3) : Byte := 0#1 ++ x ++ c

/-- The byte `0 xxx aaaa` (R52, R73). -/
def dataVolByte (x : BitVec 3) (a : BitVec 4) : Byte := 0#1 ++ x ++ a

/-- The call that carries an instruction: its tag (R50) and its byte or word; 0 where the transaction has no operand. -/
def encode : Instr → RawTxn
  | .latchTone ch n => ⟨1, (latchToneByte ch n).toNat⟩
  | .latchNoise x c => ⟨1, (latchNoiseByte x c).toNat⟩
  | .latchVol ch a => ⟨1, (latchVolByte ch a).toNat⟩
  | .dataTone x h => ⟨1, (dataToneByte x h).toNat⟩
  | .dataNoise x c => ⟨1, (dataNoiseByte x c).toNat⟩
  | .dataVol x a => ⟨1, (dataVolByte x a).toNat⟩
  | .reset => ⟨0, 0⟩
  | .tick => ⟨2, 0⟩
  | .readDigital => ⟨3, 0⟩
  | .readAnalog => ⟨4, 0⟩
  | .setDebug w => ⟨5, w.toNat⟩

/-- The call a table word stands for.  The table numbers two things from bit 0: the tag of a TXN or DW row (3 bits) and the
byte of a WB row (8 bits), and gives no bit that tells them apart.  A word whose low byte is the tag of a TXN or DW row is
read as that tag, with the debug word in the bits above the first byte; a word narrower than a byte is a tag; every other
word is the byte of a WRITE.  DESIGN CHOICE, log entry 4. -/
def tableTxn (nbits w : Nat) : RawTxn :=
  let low := w % 256
  if nbits < 8 ∨ low = 0 ∨ low = 2 ∨ low = 3 ∨ low = 4 ∨ low = 5 then ⟨BitVec.ofNat 3 low, w / 256⟩
  else ⟨1, low⟩

/-- The instruction the decoder reads from a table word, with `latch` as reset leaves it (log entry 4). -/
def decodeTableWord (nbits w : Nat) : Option Instr :=
  match decodeTxn params.resetLatch (tableTxn nbits w) with
  | .ok i => some i
  | .error _ => none

end Sys2Proof
end

