-- ==== Sys2Proof/Machine/Write.lean ====
section
/-!
DEFINITION. The meanings of the WRITE family (40_register_interface.md).  Each is the WRITE of the instruction's own byte
(R65); so a data mnemonic under another `latch` acts as its byte does there (30_encoding.md rule R63), and no bit is lost.
-/

namespace Sys2Proof.Machine

/-- LATCH_TONE (R66). -/
def execLatchTone (ch : BitVec 2) (n : BitVec 4) (s : State) : Host.Outcome State Fault Refusal :=
  complete (writeByte params (latchToneByte ch n) s.chip) .nothing s

/-- LATCH_NOISE (R70). -/
def execLatchNoise (x : BitVec 1) (c : BitVec 3) (s : State) : Host.Outcome State Fault Refusal :=
  complete (writeByte params (latchNoiseByte x c) s.chip) .nothing s

/-- LATCH_VOL (R72). -/
def execLatchVol (ch : BitVec 2) (a : BitVec 4) (s : State) : Host.Outcome State Fault Refusal :=
  complete (writeByte params (latchVolByte ch a) s.chip) .nothing s

/-- DATA_TONE (R67). -/
def execDataTone (x : BitVec 1) (h : BitVec 6) (s : State) : Host.Outcome State Fault Refusal :=
  complete (writeByte params (dataToneByte x h) s.chip) .nothing s

/-- DATA_NOISE (R71). -/
def execDataNoise (x : BitVec 4) (c : BitVec 3) (s : State) : Host.Outcome State Fault Refusal :=
  complete (writeByte params (dataNoiseByte x c) s.chip) .nothing s

/-- DATA_VOL (R73). -/
def execDataVol (x : BitVec 3) (a : BitVec 4) (s : State) : Host.Outcome State Fault Refusal :=
  complete (writeByte params (dataVolByte x a) s.chip) .nothing s

end Sys2Proof.Machine
end

