-- ==== Sys2Proof/Machine/Dispatch.lean ====
section
/-!
DEFINITION. One arm per row of opcode_table.json.
-/

namespace Sys2Proof.Machine

def exec (i : Instr) (s : State) : Host.Outcome State Fault Refusal :=
  match i with
  | .latchTone ch n => Sys2Proof.Machine.execLatchTone ch n s
  | .latchNoise x c => Sys2Proof.Machine.execLatchNoise x c s
  | .latchVol ch a => Sys2Proof.Machine.execLatchVol ch a s
  | .dataTone x h => Sys2Proof.Machine.execDataTone x h s
  | .dataNoise x c => Sys2Proof.Machine.execDataNoise x c s
  | .dataVol x a => Sys2Proof.Machine.execDataVol x a s
  | .reset => Sys2Proof.Machine.execReset s
  | .tick => Sys2Proof.Machine.execTick s
  | .readDigital => Sys2Proof.Machine.execReadDigital s
  | .readAnalog => Sys2Proof.Machine.execReadAnalog s
  | .setDebug w => Sys2Proof.Machine.execSetDebug w s

end Sys2Proof.Machine
end

