-- ==== Sys2Proof/Machine/Fetch.lean ====
section
/-!
DEFINITION. Where a step takes its transaction from: the host's next call slot (20_memory.md rule R47, log entry 1), and
how a table word is placed there (log entry 3).
-/

namespace Sys2Proof.Machine

/-- What the host does at this moment, and the machine without that slot. -/
inductive Fetched where
  /-- The host makes no call (R113). -/
  | idle (s : State)
  /-- One call whose tag exists. -/
  | instr (i : Instr) (s : State)
  /-- One call whose tag does not exist (R50). -/
  | badTag (tag : BitVec 3)
  /-- Two or more calls at one moment (R47). -/
  | concurrent

/-- Take the host's next slot and decode its call under the current `latch` (R53). -/
def fetch (s : State) : Fetched :=
  match s.calls with
  | [] => .idle s
  | [] :: rest => .idle { s with calls := rest }
  | [t] :: rest =>
    match decodeTxn s.chip.latch t with
    | .ok i => .instr i { s with calls := rest }
    | .error (.badTag tag) => .badTag tag
  | (_ :: _ :: _) :: _ => .concurrent

/-- The decoding mode a table word is read under: a data byte is read with `latch` as reset leaves it, every other word
reads no `latch` (log entry 4). -/
def tableLatch (nbits w : Nat) (latch : BitVec 3) : BitVec 3 :=
  let t := tableTxn nbits w
  if t.tag = 1 ∧ isLatchByte (truncByte t.operand) = false then params.resetLatch else latch

/-- The state in which the host's next call is the one a table word stands for. -/
def placeTableWord (s : State) (nbits w : Nat) : State :=
  { s with
    chip := { s.chip with latch := tableLatch nbits w s.chip.latch }
    calls := [tableTxn nbits w] :: s.calls }

end Sys2Proof.Machine
end

