-- ==== Sys2Proof/Machine/Step.lean ====
section
/-!
DEFINITION. One step of the machine: what the host does next (00_scope.md rule R10: only the host starts steps).
-/

namespace Sys2Proof.Machine

/-- One step.  An idle moment leaves the chip and the last Result as they are (R113); one call runs its instruction; a tag
that does not exist and concurrent calls are refused (R114). -/
def step (s : State) : Host.Outcome State Fault Refusal :=
  match fetch s with
  | .idle s' => .next s'
  | .instr i s' => exec i s'
  | .badTag tag => .refused (.badTag tag)
  | .concurrent => .refused .concurrentCalls

/-- The state whose next step runs the instruction of a table word (log entries 3 and 4). -/
def State.withFetchWord (s : State) (nbits w : Nat) : State := placeTableWord s nbits w

end Sys2Proof.Machine
end

