-- ==== Sys2Proof/Machine/Assembler.lean ====
section
/-!
DEFINITION. The assembler syntax this spec defines (30_encoding.md rule R63): its statements, their operand ranges, the
pseudo-instructions' expansions, and the reading of a line of text.  It is no hardware: it says which calls a host makes.
An operand out of its range is an assembler error, and the assembler never masks it (R63).
-/

namespace Sys2Proof.Machine

/-- The mnemonics and pseudo-instructions of R63. -/
inductive Asm where
  | reset | tick | rdd | rda
  | dbg (w : Nat)
  | wr (b : Nat)
  | lt (ch n : Nat)
  | ln (c : Nat)
  | lv (ch a : Nat)
  | dt (h : Nat)
  | dn (c : Nat)
  | dv (a : Nat)
  | tone (ch p : Nat)
  | vol (ch a : Nat)
  | noise (c : Nat)
  | ticks (n : Nat)
  | mute
  | dbgOff
  | dbgIso (k : Nat)
  deriving DecidableEq, Repr

/-- A WRITE of the byte `b`. -/
def callWrite (b : Nat) : RawTxn := ⟨1, b⟩

/-- `lt ch, n`: the byte `0x80 | ch<<5 | n`. -/
def asmLt (ch n : Nat) : RawTxn := callWrite (0x80 ||| ch <<< 5 ||| n)

/-- `lv ch, a`: the byte `0x90 | ch<<5 | a`. -/
def asmLv (ch a : Nat) : RawTxn := callWrite (0x90 ||| ch <<< 5 ||| a)

/-- `ln c`: the byte `0xE0 | c`. -/
def asmLn (c : Nat) : RawTxn := callWrite (0xE0 ||| c)

/-- The calls of a statement, in order; `none` for an operand out of its range (R63). -/
def Asm.calls : Asm → Option (List RawTxn)
  | .reset => some [⟨0, 0⟩]
  | .tick => some [⟨2, 0⟩]
  | .rdd => some [⟨3, 0⟩]
  | .rda => some [⟨4, 0⟩]
  | .dbg w => if w ≤ 0xFFFF then some [⟨5, w⟩] else none
  | .wr b => if b ≤ 0xFF then some [callWrite b] else none
  | .lt ch n => if ch ≤ 2 ∧ n ≤ 15 then some [asmLt ch n] else none
  | .ln c => if c ≤ 7 then some [asmLn c] else none
  | .lv ch a => if ch ≤ 3 ∧ a ≤ 15 then some [asmLv ch a] else none
  | .dt h => if h ≤ 63 then some [callWrite h] else none
  | .dn c => if c ≤ 7 then some [callWrite c] else none
  | .dv a => if a ≤ 15 then some [callWrite a] else none
  | .tone ch p => if ch ≤ 2 ∧ p ≤ 0x3FF then some [asmLt ch (p &&& 0xF), callWrite (p >>> 4)] else none
  | .vol ch a => if ch ≤ 3 ∧ a ≤ 15 then some [asmLv ch a] else none
  | .noise c => if c ≤ 7 then some [asmLn c] else none
  | .ticks n => some (List.replicate n ⟨2, 0⟩)
  | .mute => some [asmLv 0 15, asmLv 1 15, asmLv 2 15, asmLv 3 15]
  | .dbgOff => some [⟨5, 0⟩]
  | .dbgIso k => if k ≤ 3 then some [⟨5, 0x0200 ||| k <<< 10⟩] else none

/-- The value of a digit in base 10 or 16. -/
def digitValue (c : Char) : Nat :=
  if c.toNat < 58 then c.toNat - 48 else if c.toNat < 91 then c.toNat - 55 else c.toNat - 87

/-- A number in the given base; `none` if a character is no digit of it. -/
def readDigits (base : Nat) (cs : List Char) : Option Nat :=
  cs.foldl (fun acc c =>
    match acc with
    | none => none
    | some n => if c.isAlphanum ∧ digitValue c < base then some (n * base + digitValue c) else none) (some 0)

/-- A decimal or `0x` hexadecimal number (R63). -/
def readNumber : List Char → Option Nat
  | [] => none
  | '0' :: 'x' :: [] => none
  | '0' :: 'x' :: ds => readDigits 16 ds
  | ds => readDigits 10 ds

/-- The words of a line: blanks separate, a comma is a word of its own, `;` starts a comment (R63).  `cur` holds the word
being read, last character first. -/
def splitWords : List Char → List Char → List (List Char)
  | [], cur => if cur = [] then [] else [cur.reverse]
  | c :: rest, cur =>
    if c = ';' then (if cur = [] then [] else [cur.reverse])
    else if c = ' ' ∨ c = '\t' then (if cur = [] then splitWords rest [] else cur.reverse :: splitWords rest [])
    else if c = ',' then (if cur = [] then [','] :: splitWords rest [] else cur.reverse :: [','] :: splitWords rest [])
    else splitWords rest (c :: cur)

/-- A statement without operands. -/
def readNone : List Char → Option Asm
  | ['r', 'e', 's', 'e', 't'] => some .reset
  | ['t', 'i', 'c', 'k'] => some .tick
  | ['r', 'd', 'd'] => some .rdd
  | ['r', 'd', 'a'] => some .rda
  | ['m', 'u', 't', 'e'] => some .mute
  | ['d', 'b', 'g', '.', 'o', 'f', 'f'] => some .dbgOff
  | _ => none

/-- A statement with one operand. -/
def readOne (a : Nat) : List Char → Option Asm
  | ['d', 'b', 'g'] => some (.dbg a)
  | ['w', 'r'] => some (.wr a)
  | ['l', 'n'] => some (.ln a)
  | ['d', 't'] => some (.dt a)
  | ['d', 'n'] => some (.dn a)
  | ['d', 'v'] => some (.dv a)
  | ['n', 'o', 'i', 's', 'e'] => some (.noise a)
  | ['t', 'i', 'c', 'k', 's'] => some (.ticks a)
  | ['d', 'b', 'g', '.', 'i', 's', 'o'] => some (.dbgIso a)
  | _ => none

/-- A statement with two operands. -/
def readTwo (a b : Nat) : List Char → Option Asm
  | ['l', 't'] => some (.lt a b)
  | ['l', 'v'] => some (.lv a b)
  | ['t', 'o', 'n', 'e'] => some (.tone a b)
  | ['v', 'o', 'l'] => some (.vol a b)
  | _ => none

/-- The calls of a line of text; a line with no statement makes none, and `none` is an assembler error (R63). -/
def assembleLine (line : List Char) : Option (List RawTxn) :=
  match splitWords line [] with
  | [] => some []
  | [m] => (readNone m).bind Asm.calls
  | [m, a] => (readNumber a).bind fun x => (readOne x m).bind Asm.calls
  | [m, a, [','], b] =>
    (readNumber a).bind fun x => (readNumber b).bind fun y => (readTwo x y m).bind Asm.calls
  | _ => none

/-- The calls of a program, line after line. -/
def assemble : List (List Char) → Option (List RawTxn)
  | [] => some []
  | l :: ls => (assembleLine l).bind fun ts => (assemble ls).map fun us => ts ++ us

/-- A host that makes these calls one at a time (R47). -/
def oneAtATime (ts : List RawTxn) : List CallSlot := ts.map fun t => [t]

end Sys2Proof.Machine
end

