-- ==== Sys2Proof/Safety.lean ====
section
/-!
DEFINITION. The terms in which claims speak of safe runs: hosts whose calls are serialized and well formed, a fresh output
cache, and the relations between fields that hold in every state the transactions reach.
-/

namespace Sys2Proof.Machine

/-- A tag that exists (R50). -/
def tagExists (t : RawTxn) : Bool := t.tag != 6 && t.tag != 7

/-- The host serializes its calls (R47) and uses tags that exist (R50), in every slot it has yet to make. -/
def SafeCalls (s : State) : Prop := ∀ slot ∈ s.calls, slot.length ≤ 1 ∧ ∀ t ∈ slot, tagExists t = true

/-- The cache holds what REFRESH would give: "only valid immediately after a call to the Sample Synthesizer's internal
refresh" (R19, R124). -/
def outputFresh (c : Chip) : Bool := c.output == (refresh c).output

/-- The noise channel's period and tap mode agree with the noise configuration (R21, R27, R28, D12). -/
def noiseConsistent (p : Config.Params) (c : Chip) : Prop :=
  c.freq[3] = noisePeriod p (rateCode c.noiseData) ∧
    c.noiseType = BitVec.ofBool (c.noiseData.getLsbD p.noiseFbBit)

/-- Within a round only the channels already visited since the round boundary have a pending flip (R24, R80, R81). -/
def flipsOfRound (c : Chip) : Prop :=
  c.cycle ≠ 0 → ∀ i : Channel, c.cycle.toNat ≤ i.val → flag c.inverse i = false

/-- The relations between fields that reset establishes and every transaction keeps. -/
def Chip.Inv (p : Config.Params) (c : Chip) : Prop := noiseConsistent p c ∧ flipsOfRound c

/-- The invariant of the machine. -/
def State.Inv (s : State) : Prop := s.chip.Inv params

/-- `n` ticks of the chip, with no other transaction between them (R84, R130). -/
def tickTimes (p : Config.Params) : Nat → Chip → Chip
  | 0, c => c
  | n + 1, c => tickTimes p n (tickChip p c)

/-- The calls made one after the other, left to right, each decoded under the `latch` it meets, stopping at the first that
does not complete (R47, R53). -/
def runTxns : List RawTxn → State → Host.Outcome State Fault Refusal
  | [], s => .next s
  | t :: ts, s =>
    match decodeTxn s.chip.latch t with
    | .error (.badTag tag) => .refused (.badTag tag)
    | .ok i =>
      match exec i s with
      | .next s' => runTxns ts s'
      | .fault r => .fault r
      | .refused r => .refused r

end Sys2Proof.Machine
end

