-- ==== Sys2Proof/Certificates/Slice0/Obligations.lean ====
section
/-!
DEFINITION. The statements for the provers, drawn from the numbered rules of spec/.  A docstring names the rule or the
sections a statement formalises, and the log entry of every clause that rests on a choice.
-/

open Sys2Proof Sys2Proof.Machine

/-! ### Encoding -/

/-- Every instruction of the table, with every operand, decodes from its own encoding, under every `latch` its row admits
(30_encoding.md sections 1, 2 and 6). -/
def Obligations.DecodeEncodeRoundTrip : Prop :=
  ∀ (latch : BitVec 3) (i : Instr), i.wellFormed = true → i.fitsLatch latch = true →
    decodeTxn latch (encode i) = .ok i

/-- What the decoder accepts is a row of the table that fits `latch`, and its encoding is the call itself, cut to the
operand's width: no bit of the byte or word is lost (30_encoding.md sections 1, 2 and 6).  The cut of a wider integer is the
spec's decision D26 (20_memory.md section 2; log entry 15). -/
def Obligations.EncodeDecodeRoundTrip : Prop :=
  ∀ (latch : BitVec 3) (t : RawTxn) (i : Instr), decodeTxn latch t = .ok i →
    i.wellFormed = true ∧ i.fitsLatch latch = true ∧
      encode i = ⟨t.tag, if t.tag = 1 then t.operand % 256 else if t.tag = 5 then t.operand % 65536 else 0⟩

/-- R53, the form of a written byte: `L` is the value of `latch` after the byte's own update. -/
def Obligations.WrittenByteForms : Prop :=
  ∀ (latch : BitVec 3) (b : Byte),
    let L := if b.getLsbD 7 then b.extractLsb' 4 3 else latch
    let ch := L.extractLsb' 1 2
    (b.getLsbD 7 = true →
      ((L = 0 ∨ L = 2 ∨ L = 4) → decodeByte latch b = .latchTone ch (b.extractLsb' 0 4)) ∧
      (L = 6 → decodeByte latch b = .latchNoise (b.extractLsb' 3 1) (b.extractLsb' 0 3)) ∧
      ((L = 1 ∨ L = 3 ∨ L = 5 ∨ L = 7) → decodeByte latch b = .latchVol ch (b.extractLsb' 0 4)) ∧
      (∀ latch' : BitVec 3, decodeByte latch' b = decodeByte latch b)) ∧
    (b.getLsbD 7 = false →
      ((L = 0 ∨ L = 2 ∨ L = 4) → decodeByte latch b = .dataTone (b.extractLsb' 6 1) (b.extractLsb' 0 6)) ∧
      (L = 6 → decodeByte latch b = .dataNoise (b.extractLsb' 3 4) (b.extractLsb' 0 3)) ∧
      ((L = 1 ∨ L = 3 ∨ L = 5 ∨ L = 7) → decodeByte latch b = .dataVol (b.extractLsb' 4 3) (b.extractLsb' 0 4)))

/-- Words of every row, written out from 30_encoding.md sections 1, 2 and 6, decode to what they stand for. -/
def Obligations.WordsOfTheTableDecode : Prop :=
  decodeTxn 7 ⟨1, 0b11001111⟩ = .ok (.latchTone 2 15) ∧ decodeTxn 0 ⟨1, 0b11101110⟩ = .ok (.latchNoise 1 6) ∧
  decodeTxn 0 ⟨1, 0b10110100⟩ = .ok (.latchVol 1 4) ∧ decodeTxn 4 ⟨1, 0b01000101⟩ = .ok (.dataTone 1 5) ∧
  decodeTxn 6 ⟨1, 0b01111011⟩ = .ok (.dataNoise 15 3) ∧ decodeTxn 7 ⟨1, 0b00101100⟩ = .ok (.dataVol 2 12) ∧
  decodeTxn 3 ⟨0, 0⟩ = .ok .reset ∧ decodeTxn 3 ⟨2, 0⟩ = .ok .tick ∧ decodeTxn 3 ⟨3, 0⟩ = .ok .readDigital ∧
  decodeTxn 3 ⟨4, 0⟩ = .ok .readAnalog ∧ decodeTxn 3 ⟨5, 0x0A00⟩ = .ok (.setDebug 0x0A00)

/-- The tags of 30_encoding.md section 1 (the spec's decision D1): 0 to 5 are the six transactions, 6 and 7 are refused.  The
cut of a wider integer to a byte or a word is the spec's decision D26 (20_memory.md section 2; log entry 15). -/
def Obligations.TagsNameTheTransactions : Prop :=
  ∀ (latch : BitVec 3) (n : Nat) (s : State) (rest : List CallSlot),
    decodeTxn latch ⟨0, n⟩ = .ok .reset ∧ decodeTxn latch ⟨1, n⟩ = .ok (decodeByte latch (BitVec.ofNat 8 n)) ∧
    decodeTxn latch ⟨2, n⟩ = .ok .tick ∧ decodeTxn latch ⟨3, n⟩ = .ok .readDigital ∧
    decodeTxn latch ⟨4, n⟩ = .ok .readAnalog ∧ decodeTxn latch ⟨5, n⟩ = .ok (.setDebug (BitVec.ofNat 16 n)) ∧
    step { s with calls := [⟨6, n⟩] :: rest } = .refused (.badTag 6) ∧
    step { s with calls := [⟨7, n⟩] :: rest } = .refused (.badTag 7)

/-- Wider host integers are cut to 8 or 16 bits before they act (20_memory.md section 2, the spec's decision D26; log entry 15). -/
def Obligations.WiderIntegersAreTruncated : Prop :=
  ∀ (n : Nat) (s : State) (rest : List CallSlot),
    step { s with calls := [⟨1, n⟩] :: rest } = step { s with calls := [⟨1, n % 256⟩] :: rest } ∧
    step { s with calls := [⟨5, n⟩] :: rest } = step { s with calls := [⟨5, n % 65536⟩] :: rest }

/-- R58: every byte is a legal WRITE and every word a legal SET_DEBUG, in every state; none is refused and none traps. -/
def Obligations.EveryByteAndWordIsLegal : Prop :=
  (∀ (b : Byte) (s : State) (rest : List CallSlot), ∃ t, step { s with calls := [⟨1, b.toNat⟩] :: rest } = .next t) ∧
  (∀ (w : Half) (s : State) (rest : List CallSlot), ∃ t, step { s with calls := [⟨5, w.toNat⟩] :: rest } = .next t)

/-- R57: in each form the operand bits the table lists as read are read (other values give another state), the bits it lists
as ignored are not, and no combination is rejected. -/
def Obligations.ReadAndIgnoredBits : Prop :=
  ∀ s : State,
    (∀ ch ch' n n', ch ≠ 3 → ch' ≠ 3 →
      (exec (.latchTone ch n) s = exec (.latchTone ch' n') s ↔ ch = ch' ∧ n = n')) ∧
    (∀ x x' c c', exec (.latchNoise x c) s = exec (.latchNoise x' c') s ↔ c = c') ∧
    (∀ ch ch' a a', exec (.latchVol ch a) s = exec (.latchVol ch' a') s ↔ ch = ch' ∧ a = a') ∧
    ((s.chip.latch = 0 ∨ s.chip.latch = 2 ∨ s.chip.latch = 4) →
      ∀ x x' h h', exec (.dataTone x h) s = exec (.dataTone x' h') s ↔ h = h') ∧
    (s.chip.latch = 6 → ∀ x x' c c', exec (.dataNoise x c) s = exec (.dataNoise x' c') s ↔ c = c') ∧
    ((s.chip.latch = 1 ∨ s.chip.latch = 3 ∨ s.chip.latch = 5 ∨ s.chip.latch = 7) →
      ∀ x x' a a', exec (.dataVol x a) s = exec (.dataVol x' a') s ↔ a = a') ∧
    (∀ b : Byte, ∃ t, exec (decodeByte s.chip.latch b) s = .next t)

/-! ### The step and the host -/

/-- A step runs the decoded transaction: one call at the head of the host's list, read under the current `latch`, is
executed with the later calls left for later (20_memory.md section 5). -/
def Obligations.StepRunsTheDecodedTransaction : Prop :=
  ∀ (s : State) (t : RawTxn) (rest : List CallSlot) (i : Instr), decodeTxn s.chip.latch t = .ok i →
    step { s with calls := [t] :: rest } = exec i { s with calls := rest }

/-- With no call the state stays unchanged: an empty list, and an empty slot, which is used up (60_exceptions.md section 5,
the spec's decision D24; log entry 1). -/
def Obligations.IdleLeavesTheStateUnchanged : Prop :=
  ∀ (s : State) (rest : List CallSlot),
    step { s with calls := [] } = .next { s with calls := [] } ∧
    step { s with calls := [] :: rest } = .next { s with calls := rest }

/-- Two or more calls at one moment are refused, whatever they are (20_memory.md section 5, the spec's decision D23; log entry 11). -/
def Obligations.ConcurrentCallsAreRefused : Prop :=
  ∀ (s : State) (t u : RawTxn) (more : CallSlot) (rest : List CallSlot),
    step { s with calls := (t :: u :: more) :: rest } = .refused .concurrentCalls

/-- A step stops only at a tag that does not exist or at concurrent calls, and never with a fault (60_exceptions.md sections 1 and 5). -/
def Obligations.OnlyBadTagsAndConcurrencyStop : Prop :=
  ∀ s : State,
    (∃ t, step s = .next t) ∨
    (∃ t rest, s.calls = [t] :: rest ∧ (t.tag = 6 ∨ t.tag = 7) ∧ step s = .refused (.badTag t.tag)) ∨
    (∃ t u more rest, s.calls = (t :: u :: more) :: rest ∧ step s = .refused .concurrentCalls)

/-- A host that serializes its calls and uses existing tags is never stopped, however long it runs (60_exceptions.md section 5). -/
def Obligations.SerializedHostNeverStops : Prop :=
  ∀ (n : Nat) (s : State), SafeCalls s → ∃ t, core.run n s = .next t ∧ SafeCalls t

/-- R8: every host operation is one transition of the whole record with a Result of its kind, and none can fail. -/
def Obligations.NoOperationFails : Prop :=
  ∀ (i : Instr) (s : State), ∃ t, exec i s = .next t ∧ t.calls = s.calls ∧
    (match i with
      | .readDigital => ∃ w, t.result = .word w
      | .readAnalog => ∃ x, t.result = .single x
      | _ => t.result = .nothing)

/-- A sequence of calls, made one at a time, is the left-to-right composition of the transactions (20_memory.md section 5). -/
def Obligations.CallsComposeLeftToRight : Prop :=
  ∀ (ts : List RawTxn) (s : State) (rest : List CallSlot),
    core.run ts.length { s with calls := oneAtATime ts ++ rest } = runTxns ts { s with calls := rest }

/-! ### WRITE -/

/-- R64: a latch byte stores its bits 6 to 4 in `latch`, a data byte leaves `latch` unchanged. -/
def Obligations.LatchByteSelectsTheRegister : Prop :=
  ∀ (s : State) (b : Byte), ∃ t, exec (decodeByte s.chip.latch b) s = .next t ∧
    t.chip.latch = if b.getLsbD 7 then b.extractLsb' 4 3 else s.chip.latch

/-- R65: the whole WRITE.  The updated latch `L` selects a volume, a tone period or the noise control, and no field outside
the rule's list is written. -/
def Obligations.WriteDispatchesOnTheUpdatedLatch : Prop :=
  ∀ (s : State) (b : Byte),
    let L := if b.getLsbD 7 then b.extractLsb' 4 3 else s.chip.latch
    let ch : Channel := (L.extractLsb' 1 2).toFin
    let c := { s.chip with latch := L }
    let f := s.chip.freq[ch]
    let c' :=
      if L.getLsbD 0 then { c with volume := c.volume.set ch (b.extractLsb' 0 4) }
      else if ch ≠ 3 then
        (if b.getLsbD 7 then { c with freq := c.freq.set ch (f.extractLsb' 4 6 ++ b.extractLsb' 0 4) }
         else { c with freq := c.freq.set ch (b.extractLsb' 0 6 ++ f.extractLsb' 0 4) })
      else noiseControl params b c
    exec (decodeByte s.chip.latch b) s = .next { s with result := .nothing, chip := c' } ∧
    c' = { s.chip with
      latch := c'.latch, volume := c'.volume, freq := c'.freq, noiseData := c'.noiseData, noiseType := c'.noiseType,
      noiseReset := c'.noiseReset }

/-- R69: whenever the updated `latch` is odd, a latch byte and a data byte alike write `b[3:0]` to the volume of channel
`latch[2:1]`, and to no other channel's. -/
def Obligations.VolumeWritesAreUnconditional : Prop :=
  ∀ (s : State) (b : Byte) (ch : BitVec 2),
    (if b.getLsbD 7 then b.extractLsb' 4 3 else s.chip.latch) = ch ++ 1#1 →
    ∃ t, exec (decodeByte s.chip.latch b) s = .next t ∧
      t.chip.volume[channelOf ch] = b.extractLsb' 0 4 ∧
      ∀ j : Channel, j ≠ channelOf ch → t.chip.volume[j] = s.chip.volume[j]

/-- R66, LATCH_TONE: its byte, its whole effect, the period's effect at the channel's next visit, and the rule's example. -/
def Obligations.LatchToneEffect : Prop :=
  (∀ (ch : BitVec 2) (n : BitVec 4) (s : State), ch ≠ 3 →
    encode (.latchTone ch n) = ⟨1, 0x80 + 32 * ch.toNat + n.toNat⟩ ∧
    exec (.latchTone ch n) s = .next { s with
      result := .nothing
      chip := { s.chip with
        latch := ch ++ 0#1
        freq := s.chip.freq.set (channelOf ch) (s.chip.freq[channelOf ch].extractLsb' 4 6 ++ n) } }) ∧
  (∀ (ch : BitVec 2) (n : BitVec 4) (s : State), ch ≠ 3 → s.chip.cycle = ch →
    ∃ t u, exec (.latchTone ch n) s = .next t ∧ exec .tick t = .next u ∧
      u.chip.counter[channelOf ch] =
        if t.chip.freq[channelOf ch].toNat ≤ s.chip.counter[channelOf ch].toNat then 0
        else s.chip.counter[channelOf ch] + 1) ∧
  (∃ t, runTxns [⟨1, 0x8A⟩] State.reset = .next t ∧ t.chip.latch = 0 ∧ t.chip.freq[0] = 0x00A)

/-- R67, DATA_TONE under `latch` 0, 2 or 4: its byte, its whole effect (bit 6, `x`, is ignored), and the rule's example. -/
def Obligations.DataToneEffect : Prop :=
  (∀ (x : BitVec 1) (h : BitVec 6) (s : State), (s.chip.latch = 0 ∨ s.chip.latch = 2 ∨ s.chip.latch = 4) →
    encode (.dataTone x h) = ⟨1, 64 * x.toNat + h.toNat⟩ ∧
    exec (.dataTone x h) s = .next { s with
      result := .nothing
      chip := { s.chip with
        freq := s.chip.freq.set (latchChannel s.chip.latch)
          (h ++ s.chip.freq[latchChannel s.chip.latch].extractLsb' 0 4) } }) ∧
  (∃ t, runTxns [⟨1, 0x8A⟩, ⟨1, 0x05⟩] State.reset = .next t ∧ t.chip.freq[0] = 0x05A)

/-- LATCH_NOISE (40_register_interface.md section 2), with the parameters at the spec's values: the stored configuration
(D9, log entry 18), the tap mode from bit 1 (D6, log entry 7), the base period 0x010 (D5, log entry 6), the clear requested
(D10, log entry 19). -/
def Obligations.LatchNoiseEffect : Prop :=
  ∀ (x : BitVec 1) (c : BitVec 3) (s : State),
    encode (.latchNoise x c) = ⟨1, 0xE0 + 8 * x.toNat + c.toNat⟩ ∧
    exec (.latchNoise x c) s = .next { s with
      result := .nothing
      chip := { s.chip with
        latch := 6
        noiseData := c
        noiseType := c.extractLsb' 1 1
        noiseReset := s.chip.noiseReset.extractLsb' 1 1 ++ 1#1
        freq := s.chip.freq.set 3
          (if c.extractLsb' 0 2 = 0 then 0x010 else if c.extractLsb' 0 2 = 1 then 0x020
           else if c.extractLsb' 0 2 = 2 then 0x040 else 0) } }

/-- DATA_NOISE under `latch` 6 (40_register_interface.md section 2): as LATCH_NOISE, the four bits `x` ignored and `latch`
unchanged; choices as there. -/
def Obligations.DataNoiseEffect : Prop :=
  ∀ (x : BitVec 4) (c : BitVec 3) (s : State), s.chip.latch = 6 →
    encode (.dataNoise x c) = ⟨1, 8 * x.toNat + c.toNat⟩ ∧
    exec (.dataNoise x c) s = .next { s with
      result := .nothing
      chip := { s.chip with
        noiseData := c
        noiseType := c.extractLsb' 1 1
        noiseReset := s.chip.noiseReset.extractLsb' 1 1 ++ 1#1
        freq := s.chip.freq.set 3
          (if c.extractLsb' 0 2 = 0 then 0x010 else if c.extractLsb' 0 2 = 1 then 0x020
           else if c.extractLsb' 0 2 = 2 then 0x040 else 0) } }

/-- R72, LATCH_VOL: its byte, its whole effect, the silence of attenuation 15 in normal mode, and the rule's example. -/
def Obligations.LatchVolEffect : Prop :=
  (∀ (ch : BitVec 2) (a : BitVec 4) (s : State),
    encode (.latchVol ch a) = ⟨1, 0x90 + 32 * ch.toNat + a.toNat⟩ ∧
    exec (.latchVol ch a) s = .next { s with
      result := .nothing
      chip := { s.chip with latch := ch ++ 1#1, volume := s.chip.volume.set (channelOf ch) a } }) ∧
  (∀ (ch : BitVec 2) (s : State), s.chip.debugReg.getLsbD 0 = false →
    ∃ t u, exec (.latchVol ch 15) s = .next t ∧ exec .readDigital t = .next u ∧ u.chip.output[channelOf ch] = 15) ∧
  (∃ t, runTxns [⟨1, 0x90⟩] State.reset = .next t ∧ t.chip.latch = 1 ∧ t.chip.volume[0] = 0)

/-- R73, DATA_VOL under an odd `latch`: its byte, its whole effect (bits 6 to 4, `x`, are ignored), and the rule's example. -/
def Obligations.DataVolEffect : Prop :=
  (∀ (x : BitVec 3) (a : BitVec 4) (s : State), s.chip.latch.getLsbD 0 = true →
    encode (.dataVol x a) = ⟨1, 16 * x.toNat + a.toNat⟩ ∧
    exec (.dataVol x a) s = .next { s with
      result := .nothing
      chip := { s.chip with volume := s.chip.volume.set (latchChannel s.chip.latch) a } }) ∧
  (∃ t u, runTxns [⟨1, 0xBF⟩] State.reset = .next t ∧ t.chip.latch = 3 ∧ t.chip.volume[1] = 15 ∧
    runTxns [⟨1, 0x04⟩] t = .next u ∧ u.chip.volume[1] = 4)

/-- A data mnemonic encodes its byte and nothing more: under any `latch` it acts as that byte does (30_encoding.md
section 7; log entry 16).  The one ill-formed operand, LATCH_TONE on channel 3, is the LATCH_NOISE byte. -/
def Obligations.DataMnemonicsActByTheirByte : Prop :=
  ∀ s : State,
    (∀ x h, exec (.dataTone x h) s = exec (decodeByte s.chip.latch (0#1 ++ x ++ h)) s) ∧
    (∀ x c, exec (.dataNoise x c) s = exec (decodeByte s.chip.latch (0#1 ++ x ++ c)) s) ∧
    (∀ x a, exec (.dataVol x a) s = exec (decodeByte s.chip.latch (0#1 ++ x ++ a)) s) ∧
    (∀ n : BitVec 4, exec (.latchTone 3 n) s = exec (.latchNoise (n.extractLsb' 3 1) (n.extractLsb' 0 3)) s)

/-- R75: a WRITE of any byte in any state completes, and touches none of the fields R65 does not name. -/
def Obligations.WriteFrame : Prop :=
  ∀ (s : State) (b : Byte), ∃ t, exec (decodeByte s.chip.latch b) s = .next t ∧
    t.chip.counter = s.chip.counter ∧ t.chip.sign = s.chip.sign ∧ t.chip.inverse = s.chip.inverse ∧
    t.chip.cycle = s.chip.cycle ∧ t.chip.noise = s.chip.noise ∧ t.chip.noiseUpdate = s.chip.noiseUpdate ∧
    t.chip.output = s.chip.output ∧ t.chip.debugReg = s.chip.debugReg ∧ t.calls = s.calls ∧ t.result = .nothing

/-- R54: the assembly of a tone period, after the latch byte and after the data byte, and the two bytes of a full period. -/
def Obligations.TwoBytePeriodWrite : Prop :=
  ∀ (s : State) (ch : BitVec 2) (P : Period), ch ≠ 3 →
    (∃ t, exec (decodeByte s.chip.latch (1#1 ++ ch ++ 0#1 ++ P.extractLsb' 0 4)) s = .next t ∧
      t.chip.freq[channelOf ch] = s.chip.freq[channelOf ch].extractLsb' 4 6 ++ P.extractLsb' 0 4) ∧
    (s.chip.latch = ch ++ 0#1 → ∃ t, exec (decodeByte s.chip.latch (0#2 ++ P.extractLsb' 4 6)) s = .next t ∧
      t.chip.freq[channelOf ch] = P.extractLsb' 4 6 ++ s.chip.freq[channelOf ch].extractLsb' 0 4) ∧
    runTxns [⟨1, 0x80 ||| ch.toNat <<< 5 ||| P.toNat % 16⟩, ⟨1, P.toNat / 16⟩] s = .next { s with
      result := .nothing
      chip := { s.chip with latch := ch ++ 0#1, freq := s.chip.freq.set (channelOf ch) P } }

/-- The other order of the pair (40_register_interface.md section 3): the data byte lands on the register `latch` selected
before.  On the same tone register both orders agree; on another tone register each byte writes its own. -/
def Obligations.OppositeOrderWritesThePreviousRegister : Prop :=
  ∀ (s : State) (ch ch' : BitVec 2) (P : Period), ch ≠ 3 → ch' ≠ 3 → s.chip.latch = ch' ++ 0#1 →
    let lo : RawTxn := ⟨1, 0x80 ||| ch.toNat <<< 5 ||| P.toNat % 16⟩
    let hi : RawTxn := ⟨1, P.toNat / 16⟩
    (ch' = ch → runTxns [hi, lo] s = runTxns [lo, hi] s) ∧
    (ch' ≠ ch → ∃ t, runTxns [hi, lo] s = .next t ∧
      t.chip.freq[channelOf ch] = s.chip.freq[channelOf ch].extractLsb' 4 6 ++ P.extractLsb' 0 4 ∧
      t.chip.freq[channelOf ch'] = P.extractLsb' 4 6 ++ s.chip.freq[channelOf ch'].extractLsb' 0 4)

/-- The pseudo-instruction `tone ch, p` (30_encoding.md section 7, the spec's decision D20) sets exactly the period. -/
def Obligations.TonePseudoSetsThePeriod : Prop :=
  ∀ (ch p : Nat) (s : State), ch ≤ 2 → p ≤ 0x3FF →
    ∃ ts, Asm.calls (.tone ch p) = some ts ∧ runTxns ts s = .next { s with
      result := .nothing
      chip := { s.chip with
        latch := BitVec.ofNat 3 (2 * ch)
        freq := s.chip.freq.set (channelOf (BitVec.ofNat 2 ch)) (BitVec.ofNat 10 p) } }

/-! ### TICK -/

/-- TICK, the whole next state as one formula of the old one (41_period_counter_and_noise.md sections 1 and 2), with the
tap of conflict C1 and D12 (log entry 21), the clear of C3 and D11 (log entry 20), and the injected bit of C7 and D13 (log
entry 22); white noise is `noise_type` 1 (D7, log entry 8). -/
def Obligations.TickNextState : Prop :=
  ∀ s : State,
    let c := s.chip
    let i : Channel := c.cycle.toFin
    let tap := if c.noiseData.extractLsb' 0 2 = 3 then c.sign.getLsbD 2 else c.sign.getLsbD 3
    let inj := decide (c.noise.extractLsb' 0 15 = 0) ||
      (c.noiseType == 1#1 && (c.noise.getLsbD 15 != c.noise.getLsbD 12))
    let reached := decide (c.freq[i].toNat ≤ c.counter[i].toNat)
    exec .tick s = .next { s with
      result := .nothing
      chip := { c with
        noiseUpdate := BitVec.ofBool (c.noiseUpdate.getLsbD 0) ++ BitVec.ofBool tap
        noise :=
          if c.noiseReset.getLsbD 1 then 0
          else if !c.noiseUpdate.getLsbD 0 && tap then (c.noise <<< 1) ||| (BitVec.ofBool inj).setWidth 16
          else c.noise
        sign := if c.cycle = 0 then c.sign ^^^ c.inverse else c.sign
        inverse := (if c.cycle = 0 then 0 else c.inverse) ||| (if reached then 1#4 <<< i.val else 0)
        counter := c.counter.set i (if reached then 0 else c.counter[i] + 1)
        cycle := c.cycle + 1
        noiseReset := c.noiseReset <<< 1 } }

/-- R80: at `cycle` 0, and only then, the pending flips are applied to `sign` and cleared, before the period count of the
same tick: of the old flips none stays, and a flip channel 0 requests in this tick stays pending. -/
def Obligations.PolarityResolution : Prop :=
  ∀ s : State, ∃ t, exec .tick s = .next t ∧
    (s.chip.cycle = 0 → t.chip.sign = s.chip.sign ^^^ s.chip.inverse ∧
      t.chip.inverse = (if s.chip.freq[0].toNat ≤ s.chip.counter[0].toNat then 0b0001 else 0b0000)) ∧
    (s.chip.cycle ≠ 0 → t.chip.sign = s.chip.sign ∧
      ∀ j : Channel, j ≠ channelOf s.chip.cycle → flag t.chip.inverse j = flag s.chip.inverse j)

/-- R81: the channel `cycle`, the noise channel like any other, counts up to its period; reaching or exceeding it resets
the counter and requests a flip.  No other counter moves and no other bit of `inverse` is set. -/
def Obligations.PeriodCounting : Prop :=
  ∀ (s : State) (i : Channel), i = channelOf s.chip.cycle →
    ∃ t, exec .tick s = .next t ∧
      (s.chip.freq[i].toNat ≤ s.chip.counter[i].toNat → t.chip.counter[i] = 0 ∧ flag t.chip.inverse i = true) ∧
      (s.chip.counter[i].toNat < s.chip.freq[i].toNat → t.chip.counter[i] = s.chip.counter[i] + 1 ∧
        flag t.chip.inverse i = (s.chip.cycle != 0 && flag s.chip.inverse i)) ∧
      (∀ j : Channel, j ≠ i → t.chip.counter[j] = s.chip.counter[j] ∧
        flag t.chip.inverse j = (s.chip.cycle != 0 && flag s.chip.inverse j))

/-- R82: `cycle` runs 0, 1, 2, 3, 0, and the reset-pending line shifts: bit 0 to bit 1, bit 1 dropped, 0 into bit 0. -/
def Obligations.TickAdvance : Prop :=
  ∀ s : State, ∃ t, exec .tick s = .next t ∧
    t.chip.cycle.toNat = (s.chip.cycle.toNat + 1) % 4 ∧
    t.chip.noiseReset.getLsbD 1 = s.chip.noiseReset.getLsbD 0 ∧ t.chip.noiseReset.getLsbD 0 = false

/-- R92: TICK completes and never writes `latch`, `volume`, `freq`, `noise_data`, `noise_type`, `output` or `debug`; of
the counters only the one of `cycle`; and no other transaction (RESET aside, R115) changes a counter, `sign`, `inverse` or
the LFSR. -/
def Obligations.TickFrame : Prop :=
  ∀ s : State,
    (∀ i : Instr, i ≠ .tick → i ≠ .reset → ∃ t, exec i s = .next t ∧
      t.chip.counter = s.chip.counter ∧ t.chip.sign = s.chip.sign ∧ t.chip.inverse = s.chip.inverse ∧
      t.chip.noise = s.chip.noise) ∧
    ∃ t, exec .tick s = .next t ∧
    t.chip.latch = s.chip.latch ∧ t.chip.volume = s.chip.volume ∧ t.chip.freq = s.chip.freq ∧
    t.chip.noiseData = s.chip.noiseData ∧ t.chip.noiseType = s.chip.noiseType ∧
    t.chip.output = s.chip.output ∧ t.chip.debugReg = s.chip.debugReg ∧
    (∀ j : Channel, j ≠ channelOf s.chip.cycle → t.chip.counter[j] = s.chip.counter[j]) ∧
    t.calls = s.calls ∧ t.result = .nothing

/-- The effects that meet in one tick (60_exceptions.md section 1): the clear wins over a shift (D11, log entry 20); the exclusive or takes the flips pending before
the tick, and channel 0's new flip waits; the edge sample sees `sign` as it was before the exclusive or. -/
def Obligations.SimultaneousEffectsOfOneTick : Prop :=
  ∀ s : State, ∃ t, exec .tick s = .next t ∧
    (s.chip.noiseReset.getLsbD 1 = true → t.chip.noise = 0) ∧
    (s.chip.cycle = 0 → t.chip.sign = s.chip.sign ^^^ s.chip.inverse ∧
      (s.chip.freq[0].toNat ≤ s.chip.counter[0].toNat → t.chip.inverse = 0b0001)) ∧
    t.chip.noiseUpdate.getLsbD 0 =
      (if s.chip.noiseData.extractLsb' 0 2 = 3 then s.chip.sign.getLsbD 2 else s.chip.sign.getLsbD 3)

/-- The LFSR clear of a noise-control write comes with the second TICK after it, and leaves the configuration
(41_period_counter_and_noise.md section 2, 70_reset_and_hazards.md section 3; conflict C3, D10, D11; log entries 19 and 20). -/
def Obligations.NoiseWriteClearsAtTheSecondTick : Prop :=
  ∀ (s : State) (b : Byte), (if b.getLsbD 7 then b.extractLsb' 4 3 else s.chip.latch) = 6 →
    ∃ w t u, runTxns [⟨1, b.toNat⟩] s = .next w ∧ exec .tick w = .next t ∧ exec .tick t = .next u ∧
      w.chip.noise = s.chip.noise ∧ t.chip.noiseReset = 0b10 ∧ u.chip.noise = 0 ∧ u.chip.noiseReset = 0b00 ∧
      u.chip.noiseData = w.chip.noiseData ∧ u.chip.noiseType = w.chip.noiseType ∧ u.chip.freq = w.chip.freq

/-- Self-recovery (41_period_counter_and_noise.md section 3), for every value of the parameters: from low 15 bits zero, a
tick with a rising edge and no clear leaves exactly bit 0 set. -/
def Obligations.LfsrSelfRecovery : Prop :=
  ∀ (p : Config.Params) (c : Chip), c.noise.extractLsb' 0 15 = 0 → c.noiseUpdate.getLsbD 0 = false →
    (if c.noiseData.extractLsb' 0 2 = 3 then c.sign.getLsbD 2 else c.sign.getLsbD 3) = true →
    c.noiseReset.getLsbD 1 = false → (tickChip p c).noise = 0x0001

/-- The periodic sequence (41_period_counter_and_noise.md section 3): in periodic mode the one set bit moves up by one
at each shift, and from bit 15 back to bit 0, a cycle of 16 states, of which only the one with bit 14 gates channel 3. -/
def Obligations.PeriodicNoiseIsASixteenCycle : Prop :=
  ∀ (p : Config.Params) (c : Chip) (k : Nat), k < 16 → c.noiseType ≠ p.noiseWhiteValue →
    risingEdge c.noiseUpdate = true → c.noise = 1#16 <<< k →
    (shiftNoise p c).noise = 1#16 <<< ((k + 1) % 16) ∧ (gate c 3 = true ↔ k = 14)

/-- Flip latency (41_period_counter_and_noise.md section 3, conflict C4), for every value of the parameters: an overflow
of channel i at the tick with `cycle` = i shows in `sign[i]` 4 − i ticks later, and in no tick before. -/
def Obligations.FlipLatency : Prop :=
  ∀ (p : Config.Params) (c : Chip) (i : Channel), channelOf c.cycle = i → c.freq[i].toNat ≤ c.counter[i].toNat →
    (∀ n, 1 ≤ n → n ≤ 4 - i.val →
      flag (tickTimes p n c).sign i = flag (tickTimes p 1 c).sign i) ∧
    flag (tickTimes p (5 - i.val) c).sign i = !flag (tickTimes p 1 c).sign i

/-- The square wave (41_period_counter_and_noise.md section 3), for every value of the parameters and every period F: from a
round boundary at which channel i has just overflowed, `sign[i]` toggles at the next tick and then exactly every
4·(F + 1) ticks, for ever. -/
def Obligations.SquareWaveHalfPeriod : Prop :=
  ∀ (p : Config.Params) (c : Chip) (i : Channel), c.cycle = 0 → c.counter[i] = 0 → flag c.inverse i = true →
    ∀ m n, 1 ≤ n → n ≤ 4 * (c.freq[i].toNat + 1) →
      flag (tickTimes p (m * (4 * (c.freq[i].toNat + 1)) + n) c).sign i = (flag c.sign i != decide (m % 2 = 0))

/-- The integer laws of the counters (41_period_counter_and_noise.md section 3): a tick leaves a counter, resets it, or
raises it by one without wrapping and to no more than its period. -/
def Obligations.CountersNeverWrap : Prop :=
  ∀ (s : State) (i : Channel), ∃ t, exec .tick s = .next t ∧
    (t.chip.counter[i] = s.chip.counter[i] ∨ t.chip.counter[i] = 0 ∨
      (t.chip.counter[i].toNat = s.chip.counter[i].toNat + 1 ∧
        t.chip.counter[i].toNat ≤ s.chip.freq[i].toNat))

/-- A lowered period (70_reset_and_hazards.md section 3): a WRITE of any byte that leaves the channel's period at or below
its counter makes the channel overflow at its next visit and request a flip; no pending flip is lost by the write. -/
def Obligations.LoweredPeriodOverflowsAtTheNextVisit : Prop :=
  ∀ (s : State) (b : Byte) (i : Channel), ∃ w u, runTxns [⟨1, b.toNat⟩] s = .next w ∧
    runTxns [⟨1, b.toNat⟩, ⟨2, 0⟩] s = .next u ∧ w.chip.inverse = s.chip.inverse ∧
    (channelOf s.chip.cycle = i → w.chip.freq[i].toNat ≤ s.chip.counter[i].toNat →
      u.chip.counter[i] = 0 ∧ flag u.chip.inverse i = true)

/-- The first two ticks after reset (70_reset_and_hazards.md section 1): the initial polarity resolution, then the first
rising edge and the first shift (log entries 5 to 9: the spec's parameter values). -/
def Obligations.FirstTicksAfterReset : Prop :=
  (∃ t, runTxns [⟨2, 0⟩] State.reset = .next t ∧ t.chip.sign = 0b1111 ∧ t.chip.inverse = 0b0001 ∧
    t.chip.cycle = 1 ∧ t.chip.noise = 0 ∧ t.chip.noiseUpdate = 0b00) ∧
  (∃ t, runTxns [⟨2, 0⟩, ⟨2, 0⟩] State.reset = .next t ∧ t.chip.noiseUpdate = 0b01 ∧ t.chip.noise = 0x0001 ∧
    t.chip.inverse = 0b0011 ∧ t.chip.cycle = 2)

/-! ### The sample synthesizer -/

/-- R93: after either read, the cache holds the raw volumes in test mode, and else the volumes of the open gates
(`sign[i]` for the tone channels, LFSR bit 14 for the noise channel) and 15 elsewhere, and no other field is written; with
the rule's example. -/
def Obligations.RefreshGates : Prop :=
  (∀ (s : State) (i : Instr), i = .readDigital ∨ i = .readAnalog → ∃ t, exec i s = .next t ∧
    (s.chip.debugReg.getLsbD 0 = true → t.chip.output = s.chip.volume) ∧
    (s.chip.debugReg.getLsbD 0 = false →
      t.chip.output[0] = (if s.chip.sign.getLsbD 0 then s.chip.volume[0] else 15) ∧
      t.chip.output[1] = (if s.chip.sign.getLsbD 1 then s.chip.volume[1] else 15) ∧
      t.chip.output[2] = (if s.chip.sign.getLsbD 2 then s.chip.volume[2] else 15) ∧
      t.chip.output[3] = (if s.chip.noise.getLsbD 14 then s.chip.volume[3] else 15)) ∧
    t.chip = { s.chip with output := t.chip.output }) ∧
  (∀ s : State, s.chip.sign = 0b0101 → s.chip.noise = 0x4000 → s.chip.volume = #v[3, 4, 5, 6] → s.chip.debugReg = 0 →
    ∃ t, exec .readDigital s = .next t ∧ t.chip.output = #v[3, 15, 5, 6] ∧ t.result = .word 0x3F56)

/-- R95: READ_DIGITAL refreshes the cache and returns its four levels, channel 0 in the most significant nibble; nothing
but the cache is written.  With every volume 15 the word is 0xFFFF, and so it is after RESET and any number of TICKs; in test
mode the word is the raw volumes, whatever the gates; and the rule's example. -/
def Obligations.ReadDigitalResult : Prop :=
  encode .readDigital = ⟨3, 0⟩ ∧
  (∀ s : State, exec .readDigital s = .next { s with
    chip := { s.chip with output := (refresh s.chip).output }
    result := .word (((refresh s.chip).output[0].setWidth 16 <<< 12) ||| ((refresh s.chip).output[1].setWidth 16 <<< 8) |||
      ((refresh s.chip).output[2].setWidth 16 <<< 4) ||| (refresh s.chip).output[3].setWidth 16) }) ∧
  (∀ s : State, s.chip.volume = #v[15, 15, 15, 15] → ∃ t, exec .readDigital s = .next t ∧ t.result = .word 0xFFFF) ∧
  (∀ (n : Nat) (s : State), ∃ t, runTxns (⟨0, 0⟩ :: (List.replicate n ⟨2, 0⟩ ++ [⟨3, 0⟩])) s = .next t ∧
    t.result = .word 0xFFFF) ∧
  (∀ s : State, s.chip.debugReg.getLsbD 0 = true → ∃ t, exec .readDigital s = .next t ∧
    t.result = .word (s.chip.volume[0] ++ s.chip.volume[1] ++ s.chip.volume[2] ++ s.chip.volume[3])) ∧
  (∀ s : State, s.chip.sign = 0b0101 → s.chip.noise = 0x4000 → s.chip.volume = #v[3, 4, 5, 6] → s.chip.debugReg = 0 →
    ∃ t, exec .readDigital s = .next t ∧ t.result = .word 0x3F56)

/-- READ_ANALOG (42_sample_synthesizer.md section 2; the order and the rounding are the spec's decision D15, log entries 12 and
23): it refreshes the cache, and adds in channel order from +0.0: the four table entries of the levels in
normal mode; in test mode the isolated channel's entry (its raw volume's) and three times the calibration entry; `debug` 0b101 isolates
channel 1. -/
def Obligations.ReadAnalogResult : Prop :=
  ∀ s : State,
    let out := (refresh s.chip).output
    let lut := fun v : Level => params.volumeLut[v.toNat]'(Nat.lt_of_lt_of_le v.isLt (by decide))
    let sel : Channel := #v[(0 : Channel), 2, 1, 3][(s.chip.debugReg.extractLsb' 1 2).toFin]
    let term := fun i : Channel =>
      if s.chip.debugReg.getLsbD 0 = true ∧ i ≠ sel then params.volumeLut[16] else lut out[i]
    encode .readAnalog = ⟨4, 0⟩ ∧
    exec .readAnalog s = .next { s with
      chip := { s.chip with output := out }
      result := .single (f32Add (f32Add (f32Add (f32Add 0 (term 0)) (term 1)) (term 2)) (term 3)) } ∧
    (s.chip.debugReg.getLsbD 0 = true → out[sel] = s.chip.volume[sel]) ∧
    (s.chip.debugReg = 0b101 → sel = 1)

/-- R98: SET_DEBUG stores bits 11 to 9 of its word in `debug`, ignores the others, and writes nothing else; with the
rule's example. -/
def Obligations.SetDebugEffect : Prop :=
  (∀ (w : Half) (s : State), encode (.setDebug w) = ⟨5, w.toNat⟩ ∧ exec (.setDebug w) s = .next { s with
    result := .nothing
    chip := { s.chip with debugReg := BitVec.ofNat 3 (w.toNat / 512) } }) ∧
  (∀ s : State, ∃ t, exec (.setDebug 0x0A00) s = .next t ∧ t.chip.debugReg = 0b101)

/-- Test mode, analog (42_sample_synthesizer.md section 3): one channel's entry and three calibration entries, in channel
order, the addition to +0.0 left out because no table entry is -0.0 (the table of D14, log entry 10; the index order is D27, log entry 26). -/
def Obligations.TestModeIsolatesOneChannel : Prop :=
  ∀ s : State,
    let lut := fun v : Level => params.volumeLut[v.toNat]'(Nat.lt_of_lt_of_le v.isLt (by decide))
    let cal := params.volumeLut[16]
    let v := s.chip.volume
    ∃ t, exec .readAnalog s = .next t ∧
      (s.chip.debugReg = 0b001 → t.result = .single (f32Add (f32Add (f32Add (lut v[0]) cal) cal) cal)) ∧
      (s.chip.debugReg = 0b011 → t.result = .single (f32Add (f32Add (f32Add cal cal) (lut v[2])) cal)) ∧
      (s.chip.debugReg = 0b101 → t.result = .single (f32Add (f32Add (f32Add cal (lut v[1])) cal) cal)) ∧
      (s.chip.debugReg = 0b111 → t.result = .single (f32Add (f32Add (f32Add cal cal) cal) (lut v[3])))

/-- R43: what each transaction may change, and that a read after a read returns the same. -/
def Obligations.SideEffects : Prop :=
  ∀ s : State,
    (∀ b : Byte, ∃ t, exec (decodeByte s.chip.latch b) s = .next t ∧
      t.chip = { s.chip with
        latch := t.chip.latch, volume := t.chip.volume, freq := t.chip.freq, noiseData := t.chip.noiseData,
        noiseType := t.chip.noiseType, noiseReset := t.chip.noiseReset }) ∧
    (∃ t, exec .tick s = .next t ∧
      t.chip = { s.chip with
        noiseUpdate := t.chip.noiseUpdate, noise := t.chip.noise, sign := t.chip.sign, inverse := t.chip.inverse,
        counter := t.chip.counter, cycle := t.chip.cycle, noiseReset := t.chip.noiseReset }) ∧
    (∀ i, i = Instr.readDigital ∨ i = .readAnalog → ∃ t, exec i s = .next t ∧
      t.chip = { s.chip with output := t.chip.output } ∧ exec i t = .next t) ∧
    (∀ w : Half, ∃ t, exec (.setDebug w) s = .next t ∧ t.chip = { s.chip with debugReg := t.chip.debugReg }) ∧
    (∀ s' : State, ∃ t t', exec .reset s = .next t ∧ exec .reset s' = .next t' ∧ t.chip = t'.chip)

/-- Reads in any mix give what they gave before (42_sample_synthesizer.md section 3): a read between two equal reads, of
either kind, changes neither the cache nor the second Result. -/
def Obligations.ReadsInAnyMixAgree : Prop :=
  ∀ (s : State) (i j : Instr), (i = .readDigital ∨ i = .readAnalog) → (j = .readDigital ∨ j = .readAnalog) →
    ∃ t u v, exec i s = .next t ∧ exec j t = .next u ∧ exec i u = .next v ∧ v = t ∧ u.chip = t.chip

/-- The enable bit clear (42_sample_synthesizer.md section 3, the spec's decision D16, log entry 24): `debug[2:1]` has no effect on any
transaction: two states that differ only there take every transaction to the same Result and to states that differ at most there. -/
def Obligations.DebugIndexInertInNormalMode : Prop :=
  ∀ (i : Instr) (s : State) (d : BitVec 3), s.chip.debugReg.getLsbD 0 = false → d.getLsbD 0 = false →
    ∃ t t', exec i s = .next t ∧ exec i { s with chip := { s.chip with debugReg := d } } = .next t' ∧
      t.result = t'.result ∧ t.calls = t'.calls ∧ { t.chip with debugReg := t'.chip.debugReg } = t'.chip

/-- No stale cache is ever shown (10_state.md section 2, 42_sample_synthesizer.md section 1): two states that differ only in
`output` take every transaction to the same Result and to states that differ at most in `output`; after a read they are equal. -/
def Obligations.StaleCacheIsInvisible : Prop :=
  ∀ (i : Instr) (s : State) (o : Vector Level 4),
    ∃ t t', exec i s = .next t ∧ exec i { s with chip := { s.chip with output := o } } = .next t' ∧
      t.result = t'.result ∧ t.calls = t'.calls ∧ { t.chip with output := t'.chip.output } = t'.chip ∧
      ((i = .readDigital ∨ i = .readAnalog) → t = t' ∧ outputFresh t.chip = true)

/-- The reset state's samples (42_sample_synthesizer.md section 3): 0xFFFF, and the sum of four times the entry of level 15
(log entry 9: the reset value of `sign` is the spec's choice). -/
def Obligations.ResetStateSamples : Prop :=
  (∃ t, exec .readDigital State.reset = .next t ∧ t.result = .word 0xFFFF) ∧
  (∃ t, exec .readAnalog State.reset = .next t ∧ t.result = .single
    (f32Add (f32Add (f32Add params.volumeLut[15] params.volumeLut[15]) params.volumeLut[15]) params.volumeLut[15]))

/-- The addition rounds to nearest, ties to even (00_scope.md section 5, 42_sample_synthesizer.md section 2; log entry 12): a
finite sum is at least as near the exact sum as every finite value, and where another value is as near, its last bit is 0. -/
def Obligations.AdditionRoundsToNearestEven : Prop :=
  ∀ x y : F32, f32Finite x = true → f32Finite y = true → f32Finite (f32Add x y) = true →
    let sum := f32Scaled x + f32Scaled y
    let err := fun z : F32 => (f32Scaled z - sum).natAbs
    (∀ z, f32Finite z = true → err (f32Add x y) ≤ err z) ∧
    (∀ z, f32Finite z = true → f32Scaled z ≠ f32Scaled (f32Add x y) → err z = err (f32Add x y) →
      (f32Add x y).getLsbD 0 = false)

/-- No overflow and no NaN (42_sample_synthesizer.md section 2): for every table whose entries are finite and below 2^125 in
magnitude, the analog sample of every chip is finite. -/
def Obligations.AnalogSampleIsFinite : Prop :=
  ∀ (p : Config.Params) (c : Chip),
    (∀ k : Fin 17, f32Finite p.volumeLut[k] = true ∧ f32Magnitude p.volumeLut[k] < 2 ^ 125 * 2 ^ 149) →
    f32Finite (analogSample p c) = true

/-! ### RESET and the whole machine -/

/-- RESET (70_reset_and_hazards.md section 1): every field at its reset value, whatever the state before; and the power-on
state is that state.  `latch` 6 (D3, log entry 5), `freq[3]` 0x010 (D4, D5, log entry 6), `sign` 0 (D8, log entry 9) and the power-on
state (D18, log entry 25) are the spec's decisions. -/
def Obligations.ResetWritesEveryField : Prop :=
  (∀ s : State, exec .reset s = .next { s with
    result := .nothing
    chip :=
      { latch := 6, volume := #v[15, 15, 15, 15], output := #v[15, 15, 15, 15], freq := #v[0, 0, 0, 0x010],
        counter := #v[0, 0, 0, 0], sign := 0b0000, inverse := 0b1111, cycle := 0, noise := 0x0000, noiseData := 0,
        noiseType := 0, noiseReset := 0b00, noiseUpdate := 0b00, debugReg := 0 } }) ∧
  exec .reset State.reset = .next State.reset

/-- Writers (10_state.md section 4), over all instructions: each field is left alone by every transaction that is not named
as its writer. -/
def Obligations.OnlyTheNamedWritersWrite : Prop :=
  ∀ (i : Instr) (s : State), i ≠ .reset → ∃ t, exec i s = .next t ∧
    ((encode i).tag ≠ 1 →
      t.chip.latch = s.chip.latch ∧ t.chip.volume = s.chip.volume ∧ t.chip.freq = s.chip.freq ∧
      t.chip.noiseData = s.chip.noiseData ∧ t.chip.noiseType = s.chip.noiseType ∧
      (t.chip.noiseReset.getLsbD 0 = true → s.chip.noiseReset.getLsbD 0 = true)) ∧
    (i ≠ .tick →
      t.chip.counter = s.chip.counter ∧ t.chip.sign = s.chip.sign ∧ t.chip.inverse = s.chip.inverse ∧
      t.chip.cycle = s.chip.cycle ∧ t.chip.noise = s.chip.noise ∧ t.chip.noiseUpdate = s.chip.noiseUpdate ∧
      t.chip.noiseReset.getLsbD 1 = s.chip.noiseReset.getLsbD 1) ∧
    (i ≠ .readDigital → i ≠ .readAnalog → t.chip.output = s.chip.output) ∧
    ((encode i).tag ≠ 5 → t.chip.debugReg = s.chip.debugReg)

/-- The invariant of the machine is kept by every step from every state that has it: the noise channel's period and tap mode
agree with the noise configuration, and within a round only channels already visited have a pending flip
(10_state.md section 2, 41_period_counter_and_noise.md section 2). -/
def Obligations.EveryStepKeepsTheFieldRelations : Prop :=
  ∀ s t : State, s.Inv → step s = .next t → t.Inv

/-- The invariant holds at reset (log entry 6: `freq[3]` at reset is the spec's choice, made so that this holds). -/
def Obligations.ResetHasTheFieldRelations : Prop := State.reset.Inv

/-- The two ways to tell rate code 3 agree wherever the invariant holds (the spec's decision D12, log entry 21): the rate code is 3 exactly
when the noise channel's period is 0; and that period is always one of 0x010, 0x020, 0x040 and 0 (10_state.md section 2;
log entry 6). -/
def Obligations.ZeroNoisePeriodMeansRateCodeThree : Prop :=
  ∀ s : State, s.Inv →
    (s.chip.freq[3] = 0 ↔ s.chip.noiseData.extractLsb' 0 2 = 3) ∧
    (s.chip.freq[3] = 0x010 ∨ s.chip.freq[3] = 0x020 ∨ s.chip.freq[3] = 0x040 ∨ s.chip.freq[3] = 0)
end

