-- ==== Sys2Proof/Laws/State.lean ====
section
/-!
SUPPORT. One lemma per field per update: what each shared operation of Machine/Ops.lean leaves in each field of the chip's
record.  Every one is true by rfl and tagged for simp, so that no later proof unfolds a record update.
-/

namespace Sys2Proof.Machine

/-! ### selectRegister -/

@[simp] theorem selectRegister_latch (b : Byte) (c : Chip) : (selectRegister b c).latch =
    if isLatchByte b then latchField b else c.latch := rfl
@[simp] theorem selectRegister_volume (b : Byte) (c : Chip) : (selectRegister b c).volume = c.volume := rfl
@[simp] theorem selectRegister_output (b : Byte) (c : Chip) : (selectRegister b c).output = c.output := rfl
@[simp] theorem selectRegister_freq (b : Byte) (c : Chip) : (selectRegister b c).freq = c.freq := rfl
@[simp] theorem selectRegister_counter (b : Byte) (c : Chip) : (selectRegister b c).counter = c.counter := rfl
@[simp] theorem selectRegister_sign (b : Byte) (c : Chip) : (selectRegister b c).sign = c.sign := rfl
@[simp] theorem selectRegister_inverse (b : Byte) (c : Chip) : (selectRegister b c).inverse = c.inverse := rfl
@[simp] theorem selectRegister_cycle (b : Byte) (c : Chip) : (selectRegister b c).cycle = c.cycle := rfl
@[simp] theorem selectRegister_noise (b : Byte) (c : Chip) : (selectRegister b c).noise = c.noise := rfl
@[simp] theorem selectRegister_noiseData (b : Byte) (c : Chip) : (selectRegister b c).noiseData = c.noiseData := rfl
@[simp] theorem selectRegister_noiseType (b : Byte) (c : Chip) : (selectRegister b c).noiseType = c.noiseType := rfl
@[simp] theorem selectRegister_noiseReset (b : Byte) (c : Chip) : (selectRegister b c).noiseReset = c.noiseReset := rfl
@[simp] theorem selectRegister_noiseUpdate (b : Byte) (c : Chip) : (selectRegister b c).noiseUpdate = c.noiseUpdate := rfl
@[simp] theorem selectRegister_debugReg (b : Byte) (c : Chip) : (selectRegister b c).debugReg = c.debugReg := rfl

/-! ### writeVolume -/

@[simp] theorem writeVolume_latch (b : Byte) (c : Chip) : (writeVolume b c).latch = c.latch := rfl
@[simp] theorem writeVolume_volume (b : Byte) (c : Chip) : (writeVolume b c).volume =
    c.volume.set (latchChannel c.latch) (lowNibble b) := rfl
@[simp] theorem writeVolume_output (b : Byte) (c : Chip) : (writeVolume b c).output = c.output := rfl
@[simp] theorem writeVolume_freq (b : Byte) (c : Chip) : (writeVolume b c).freq = c.freq := rfl
@[simp] theorem writeVolume_counter (b : Byte) (c : Chip) : (writeVolume b c).counter = c.counter := rfl
@[simp] theorem writeVolume_sign (b : Byte) (c : Chip) : (writeVolume b c).sign = c.sign := rfl
@[simp] theorem writeVolume_inverse (b : Byte) (c : Chip) : (writeVolume b c).inverse = c.inverse := rfl
@[simp] theorem writeVolume_cycle (b : Byte) (c : Chip) : (writeVolume b c).cycle = c.cycle := rfl
@[simp] theorem writeVolume_noise (b : Byte) (c : Chip) : (writeVolume b c).noise = c.noise := rfl
@[simp] theorem writeVolume_noiseData (b : Byte) (c : Chip) : (writeVolume b c).noiseData = c.noiseData := rfl
@[simp] theorem writeVolume_noiseType (b : Byte) (c : Chip) : (writeVolume b c).noiseType = c.noiseType := rfl
@[simp] theorem writeVolume_noiseReset (b : Byte) (c : Chip) : (writeVolume b c).noiseReset = c.noiseReset := rfl
@[simp] theorem writeVolume_noiseUpdate (b : Byte) (c : Chip) : (writeVolume b c).noiseUpdate = c.noiseUpdate := rfl
@[simp] theorem writeVolume_debugReg (b : Byte) (c : Chip) : (writeVolume b c).debugReg = c.debugReg := rfl

/-! ### writePeriod -/

@[simp] theorem writePeriod_latch (b : Byte) (c : Chip) : (writePeriod b c).latch = c.latch := rfl
@[simp] theorem writePeriod_volume (b : Byte) (c : Chip) : (writePeriod b c).volume = c.volume := rfl
@[simp] theorem writePeriod_output (b : Byte) (c : Chip) : (writePeriod b c).output = c.output := rfl
@[simp] theorem writePeriod_freq (b : Byte) (c : Chip) : (writePeriod b c).freq =
    c.freq.set (latchChannel c.latch)
      (if isLatchByte b then periodWithLow c.freq[latchChannel c.latch] (lowNibble b)
       else periodWithHigh c.freq[latchChannel c.latch] (lowSix b)) := rfl
@[simp] theorem writePeriod_counter (b : Byte) (c : Chip) : (writePeriod b c).counter = c.counter := rfl
@[simp] theorem writePeriod_sign (b : Byte) (c : Chip) : (writePeriod b c).sign = c.sign := rfl
@[simp] theorem writePeriod_inverse (b : Byte) (c : Chip) : (writePeriod b c).inverse = c.inverse := rfl
@[simp] theorem writePeriod_cycle (b : Byte) (c : Chip) : (writePeriod b c).cycle = c.cycle := rfl
@[simp] theorem writePeriod_noise (b : Byte) (c : Chip) : (writePeriod b c).noise = c.noise := rfl
@[simp] theorem writePeriod_noiseData (b : Byte) (c : Chip) : (writePeriod b c).noiseData = c.noiseData := rfl
@[simp] theorem writePeriod_noiseType (b : Byte) (c : Chip) : (writePeriod b c).noiseType = c.noiseType := rfl
@[simp] theorem writePeriod_noiseReset (b : Byte) (c : Chip) : (writePeriod b c).noiseReset = c.noiseReset := rfl
@[simp] theorem writePeriod_noiseUpdate (b : Byte) (c : Chip) : (writePeriod b c).noiseUpdate = c.noiseUpdate := rfl
@[simp] theorem writePeriod_debugReg (b : Byte) (c : Chip) : (writePeriod b c).debugReg = c.debugReg := rfl

/-! ### noiseControl -/

@[simp] theorem noiseControl_latch (p : Config.Params) (b : Byte) (c : Chip) : (noiseControl p b c).latch = c.latch := rfl
@[simp] theorem noiseControl_volume (p : Config.Params) (b : Byte) (c : Chip) : (noiseControl p b c).volume = c.volume := rfl
@[simp] theorem noiseControl_output (p : Config.Params) (b : Byte) (c : Chip) : (noiseControl p b c).output = c.output := rfl
@[simp] theorem noiseControl_freq (p : Config.Params) (b : Byte) (c : Chip) : (noiseControl p b c).freq =
    c.freq.set 3 (noisePeriod p (rateCode (noiseField b))) := rfl
@[simp] theorem noiseControl_counter (p : Config.Params) (b : Byte) (c : Chip) : (noiseControl p b c).counter = c.counter := rfl
@[simp] theorem noiseControl_sign (p : Config.Params) (b : Byte) (c : Chip) : (noiseControl p b c).sign = c.sign := rfl
@[simp] theorem noiseControl_inverse (p : Config.Params) (b : Byte) (c : Chip) : (noiseControl p b c).inverse = c.inverse := rfl
@[simp] theorem noiseControl_cycle (p : Config.Params) (b : Byte) (c : Chip) : (noiseControl p b c).cycle = c.cycle := rfl
@[simp] theorem noiseControl_noise (p : Config.Params) (b : Byte) (c : Chip) : (noiseControl p b c).noise = c.noise := rfl
@[simp] theorem noiseControl_noiseData (p : Config.Params) (b : Byte) (c : Chip) : (noiseControl p b c).noiseData =
    noiseField b := rfl
@[simp] theorem noiseControl_noiseType (p : Config.Params) (b : Byte) (c : Chip) : (noiseControl p b c).noiseType =
    BitVec.ofBool (b.getLsbD p.noiseFbBit) := rfl
@[simp] theorem noiseControl_noiseReset (p : Config.Params) (b : Byte) (c : Chip) : (noiseControl p b c).noiseReset =
    c.noiseReset ||| 0b01 := rfl
@[simp] theorem noiseControl_noiseUpdate (p : Config.Params) (b : Byte) (c : Chip) : (noiseControl p b c).noiseUpdate = c.noiseUpdate := rfl
@[simp] theorem noiseControl_debugReg (p : Config.Params) (b : Byte) (c : Chip) : (noiseControl p b c).debugReg = c.debugReg := rfl

/-! ### sampleTap -/

@[simp] theorem sampleTap_latch (c : Chip) : (sampleTap c).latch = c.latch := rfl
@[simp] theorem sampleTap_volume (c : Chip) : (sampleTap c).volume = c.volume := rfl
@[simp] theorem sampleTap_output (c : Chip) : (sampleTap c).output = c.output := rfl
@[simp] theorem sampleTap_freq (c : Chip) : (sampleTap c).freq = c.freq := rfl
@[simp] theorem sampleTap_counter (c : Chip) : (sampleTap c).counter = c.counter := rfl
@[simp] theorem sampleTap_sign (c : Chip) : (sampleTap c).sign = c.sign := rfl
@[simp] theorem sampleTap_inverse (c : Chip) : (sampleTap c).inverse = c.inverse := rfl
@[simp] theorem sampleTap_cycle (c : Chip) : (sampleTap c).cycle = c.cycle := rfl
@[simp] theorem sampleTap_noise (c : Chip) : (sampleTap c).noise = c.noise := rfl
@[simp] theorem sampleTap_noiseData (c : Chip) : (sampleTap c).noiseData = c.noiseData := rfl
@[simp] theorem sampleTap_noiseType (c : Chip) : (sampleTap c).noiseType = c.noiseType := rfl
@[simp] theorem sampleTap_noiseReset (c : Chip) : (sampleTap c).noiseReset = c.noiseReset := rfl
@[simp] theorem sampleTap_noiseUpdate (c : Chip) : (sampleTap c).noiseUpdate =
    pushEdge c.noiseUpdate (noiseTap c) := rfl
@[simp] theorem sampleTap_debugReg (c : Chip) : (sampleTap c).debugReg = c.debugReg := rfl

/-! ### shiftNoise -/

@[simp] theorem shiftNoise_latch (p : Config.Params) (c : Chip) : (shiftNoise p c).latch = c.latch := rfl
@[simp] theorem shiftNoise_volume (p : Config.Params) (c : Chip) : (shiftNoise p c).volume = c.volume := rfl
@[simp] theorem shiftNoise_output (p : Config.Params) (c : Chip) : (shiftNoise p c).output = c.output := rfl
@[simp] theorem shiftNoise_freq (p : Config.Params) (c : Chip) : (shiftNoise p c).freq = c.freq := rfl
@[simp] theorem shiftNoise_counter (p : Config.Params) (c : Chip) : (shiftNoise p c).counter = c.counter := rfl
@[simp] theorem shiftNoise_sign (p : Config.Params) (c : Chip) : (shiftNoise p c).sign = c.sign := rfl
@[simp] theorem shiftNoise_inverse (p : Config.Params) (c : Chip) : (shiftNoise p c).inverse = c.inverse := rfl
@[simp] theorem shiftNoise_cycle (p : Config.Params) (c : Chip) : (shiftNoise p c).cycle = c.cycle := rfl
@[simp] theorem shiftNoise_noise (p : Config.Params) (c : Chip) : (shiftNoise p c).noise =
    if risingEdge c.noiseUpdate then c.noise.extractLsb' 0 15 ++ BitVec.ofBool (injectedBit p c) else c.noise := rfl
@[simp] theorem shiftNoise_noiseData (p : Config.Params) (c : Chip) : (shiftNoise p c).noiseData = c.noiseData := rfl
@[simp] theorem shiftNoise_noiseType (p : Config.Params) (c : Chip) : (shiftNoise p c).noiseType = c.noiseType := rfl
@[simp] theorem shiftNoise_noiseReset (p : Config.Params) (c : Chip) : (shiftNoise p c).noiseReset = c.noiseReset := rfl
@[simp] theorem shiftNoise_noiseUpdate (p : Config.Params) (c : Chip) : (shiftNoise p c).noiseUpdate = c.noiseUpdate := rfl
@[simp] theorem shiftNoise_debugReg (p : Config.Params) (c : Chip) : (shiftNoise p c).debugReg = c.debugReg := rfl

/-! ### clearNoise -/

@[simp] theorem clearNoise_latch (c : Chip) : (clearNoise c).latch = c.latch := rfl
@[simp] theorem clearNoise_volume (c : Chip) : (clearNoise c).volume = c.volume := rfl
@[simp] theorem clearNoise_output (c : Chip) : (clearNoise c).output = c.output := rfl
@[simp] theorem clearNoise_freq (c : Chip) : (clearNoise c).freq = c.freq := rfl
@[simp] theorem clearNoise_counter (c : Chip) : (clearNoise c).counter = c.counter := rfl
@[simp] theorem clearNoise_sign (c : Chip) : (clearNoise c).sign = c.sign := rfl
@[simp] theorem clearNoise_inverse (c : Chip) : (clearNoise c).inverse = c.inverse := rfl
@[simp] theorem clearNoise_cycle (c : Chip) : (clearNoise c).cycle = c.cycle := rfl
@[simp] theorem clearNoise_noise (c : Chip) : (clearNoise c).noise =
    if c.noiseReset.getLsbD 1 then 0 else c.noise := rfl
@[simp] theorem clearNoise_noiseData (c : Chip) : (clearNoise c).noiseData = c.noiseData := rfl
@[simp] theorem clearNoise_noiseType (c : Chip) : (clearNoise c).noiseType = c.noiseType := rfl
@[simp] theorem clearNoise_noiseReset (c : Chip) : (clearNoise c).noiseReset = c.noiseReset := rfl
@[simp] theorem clearNoise_noiseUpdate (c : Chip) : (clearNoise c).noiseUpdate = c.noiseUpdate := rfl
@[simp] theorem clearNoise_debugReg (c : Chip) : (clearNoise c).debugReg = c.debugReg := rfl

/-! ### resolvePolarity -/

@[simp] theorem resolvePolarity_latch (c : Chip) : (resolvePolarity c).latch = c.latch := rfl
@[simp] theorem resolvePolarity_volume (c : Chip) : (resolvePolarity c).volume = c.volume := rfl
@[simp] theorem resolvePolarity_output (c : Chip) : (resolvePolarity c).output = c.output := rfl
@[simp] theorem resolvePolarity_freq (c : Chip) : (resolvePolarity c).freq = c.freq := rfl
@[simp] theorem resolvePolarity_counter (c : Chip) : (resolvePolarity c).counter = c.counter := rfl
@[simp] theorem resolvePolarity_sign (c : Chip) : (resolvePolarity c).sign =
    if c.cycle = 0 then resolveSign c.sign c.inverse else c.sign := rfl
@[simp] theorem resolvePolarity_inverse (c : Chip) : (resolvePolarity c).inverse =
    if c.cycle = 0 then 0 else c.inverse := rfl
@[simp] theorem resolvePolarity_cycle (c : Chip) : (resolvePolarity c).cycle = c.cycle := rfl
@[simp] theorem resolvePolarity_noise (c : Chip) : (resolvePolarity c).noise = c.noise := rfl
@[simp] theorem resolvePolarity_noiseData (c : Chip) : (resolvePolarity c).noiseData = c.noiseData := rfl
@[simp] theorem resolvePolarity_noiseType (c : Chip) : (resolvePolarity c).noiseType = c.noiseType := rfl
@[simp] theorem resolvePolarity_noiseReset (c : Chip) : (resolvePolarity c).noiseReset = c.noiseReset := rfl
@[simp] theorem resolvePolarity_noiseUpdate (c : Chip) : (resolvePolarity c).noiseUpdate = c.noiseUpdate := rfl
@[simp] theorem resolvePolarity_debugReg (c : Chip) : (resolvePolarity c).debugReg = c.debugReg := rfl

/-! ### countPeriod -/

@[simp] theorem countPeriod_latch (c : Chip) : (countPeriod c).latch = c.latch := rfl
@[simp] theorem countPeriod_volume (c : Chip) : (countPeriod c).volume = c.volume := rfl
@[simp] theorem countPeriod_output (c : Chip) : (countPeriod c).output = c.output := rfl
@[simp] theorem countPeriod_freq (c : Chip) : (countPeriod c).freq = c.freq := rfl
@[simp] theorem countPeriod_counter (c : Chip) : (countPeriod c).counter =
    c.counter.set (channelOf c.cycle) (if periodReached c then 0 else c.counter[channelOf c.cycle] + 1) := rfl
@[simp] theorem countPeriod_sign (c : Chip) : (countPeriod c).sign = c.sign := rfl
@[simp] theorem countPeriod_inverse (c : Chip) : (countPeriod c).inverse =
    if periodReached c then setFlag c.inverse (channelOf c.cycle) else c.inverse := rfl
@[simp] theorem countPeriod_cycle (c : Chip) : (countPeriod c).cycle = c.cycle := rfl
@[simp] theorem countPeriod_noise (c : Chip) : (countPeriod c).noise = c.noise := rfl
@[simp] theorem countPeriod_noiseData (c : Chip) : (countPeriod c).noiseData = c.noiseData := rfl
@[simp] theorem countPeriod_noiseType (c : Chip) : (countPeriod c).noiseType = c.noiseType := rfl
@[simp] theorem countPeriod_noiseReset (c : Chip) : (countPeriod c).noiseReset = c.noiseReset := rfl
@[simp] theorem countPeriod_noiseUpdate (c : Chip) : (countPeriod c).noiseUpdate = c.noiseUpdate := rfl
@[simp] theorem countPeriod_debugReg (c : Chip) : (countPeriod c).debugReg = c.debugReg := rfl

/-! ### advance -/

@[simp] theorem advance_latch (c : Chip) : (advance c).latch = c.latch := rfl
@[simp] theorem advance_volume (c : Chip) : (advance c).volume = c.volume := rfl
@[simp] theorem advance_output (c : Chip) : (advance c).output = c.output := rfl
@[simp] theorem advance_freq (c : Chip) : (advance c).freq = c.freq := rfl
@[simp] theorem advance_counter (c : Chip) : (advance c).counter = c.counter := rfl
@[simp] theorem advance_sign (c : Chip) : (advance c).sign = c.sign := rfl
@[simp] theorem advance_inverse (c : Chip) : (advance c).inverse = c.inverse := rfl
@[simp] theorem advance_cycle (c : Chip) : (advance c).cycle =
    c.cycle + 1 := rfl
@[simp] theorem advance_noise (c : Chip) : (advance c).noise = c.noise := rfl
@[simp] theorem advance_noiseData (c : Chip) : (advance c).noiseData = c.noiseData := rfl
@[simp] theorem advance_noiseType (c : Chip) : (advance c).noiseType = c.noiseType := rfl
@[simp] theorem advance_noiseReset (c : Chip) : (advance c).noiseReset =
    c.noiseReset.extractLsb' 0 1 ++ 0#1 := rfl
@[simp] theorem advance_noiseUpdate (c : Chip) : (advance c).noiseUpdate = c.noiseUpdate := rfl
@[simp] theorem advance_debugReg (c : Chip) : (advance c).debugReg = c.debugReg := rfl

/-! ### refresh -/

@[simp] theorem refresh_latch (c : Chip) : (refresh c).latch = c.latch := rfl
@[simp] theorem refresh_volume (c : Chip) : (refresh c).volume = c.volume := rfl
@[simp] theorem refresh_output (c : Chip) : (refresh c).output =
    #v[levelOf c 0, levelOf c 1, levelOf c 2, levelOf c 3] := rfl
@[simp] theorem refresh_freq (c : Chip) : (refresh c).freq = c.freq := rfl
@[simp] theorem refresh_counter (c : Chip) : (refresh c).counter = c.counter := rfl
@[simp] theorem refresh_sign (c : Chip) : (refresh c).sign = c.sign := rfl
@[simp] theorem refresh_inverse (c : Chip) : (refresh c).inverse = c.inverse := rfl
@[simp] theorem refresh_cycle (c : Chip) : (refresh c).cycle = c.cycle := rfl
@[simp] theorem refresh_noise (c : Chip) : (refresh c).noise = c.noise := rfl
@[simp] theorem refresh_noiseData (c : Chip) : (refresh c).noiseData = c.noiseData := rfl
@[simp] theorem refresh_noiseType (c : Chip) : (refresh c).noiseType = c.noiseType := rfl
@[simp] theorem refresh_noiseReset (c : Chip) : (refresh c).noiseReset = c.noiseReset := rfl
@[simp] theorem refresh_noiseUpdate (c : Chip) : (refresh c).noiseUpdate = c.noiseUpdate := rfl
@[simp] theorem refresh_debugReg (c : Chip) : (refresh c).debugReg = c.debugReg := rfl

/-! ### setDebugField -/

@[simp] theorem setDebugField_latch (w : Half) (c : Chip) : (setDebugField w c).latch = c.latch := rfl
@[simp] theorem setDebugField_volume (w : Half) (c : Chip) : (setDebugField w c).volume = c.volume := rfl
@[simp] theorem setDebugField_output (w : Half) (c : Chip) : (setDebugField w c).output = c.output := rfl
@[simp] theorem setDebugField_freq (w : Half) (c : Chip) : (setDebugField w c).freq = c.freq := rfl
@[simp] theorem setDebugField_counter (w : Half) (c : Chip) : (setDebugField w c).counter = c.counter := rfl
@[simp] theorem setDebugField_sign (w : Half) (c : Chip) : (setDebugField w c).sign = c.sign := rfl
@[simp] theorem setDebugField_inverse (w : Half) (c : Chip) : (setDebugField w c).inverse = c.inverse := rfl
@[simp] theorem setDebugField_cycle (w : Half) (c : Chip) : (setDebugField w c).cycle = c.cycle := rfl
@[simp] theorem setDebugField_noise (w : Half) (c : Chip) : (setDebugField w c).noise = c.noise := rfl
@[simp] theorem setDebugField_noiseData (w : Half) (c : Chip) : (setDebugField w c).noiseData = c.noiseData := rfl
@[simp] theorem setDebugField_noiseType (w : Half) (c : Chip) : (setDebugField w c).noiseType = c.noiseType := rfl
@[simp] theorem setDebugField_noiseReset (w : Half) (c : Chip) : (setDebugField w c).noiseReset = c.noiseReset := rfl
@[simp] theorem setDebugField_noiseUpdate (w : Half) (c : Chip) : (setDebugField w c).noiseUpdate = c.noiseUpdate := rfl
@[simp] theorem setDebugField_debugReg (w : Half) (c : Chip) : (setDebugField w c).debugReg =
    debugField w := rfl

/-! ### Chip.resetWith -/

@[simp] theorem resetWith_latch (p : Config.Params) : (Chip.resetWith p).latch = p.resetLatch := rfl
@[simp] theorem resetWith_volume (p : Config.Params) : (Chip.resetWith p).volume = Vector.replicate 4 15 := rfl
@[simp] theorem resetWith_output (p : Config.Params) : (Chip.resetWith p).output = Vector.replicate 4 15 := rfl
@[simp] theorem resetWith_freq (p : Config.Params) : (Chip.resetWith p).freq = #v[0, 0, 0, p.noiseBasePeriod.setWidth 10] := rfl
@[simp] theorem resetWith_counter (p : Config.Params) : (Chip.resetWith p).counter = Vector.replicate 4 0 := rfl
@[simp] theorem resetWith_sign (p : Config.Params) : (Chip.resetWith p).sign = p.resetSign := rfl
@[simp] theorem resetWith_inverse (p : Config.Params) : (Chip.resetWith p).inverse = 0b1111 := rfl
@[simp] theorem resetWith_cycle (p : Config.Params) : (Chip.resetWith p).cycle = 0 := rfl
@[simp] theorem resetWith_noise (p : Config.Params) : (Chip.resetWith p).noise = 0 := rfl
@[simp] theorem resetWith_noiseData (p : Config.Params) : (Chip.resetWith p).noiseData = 0 := rfl
@[simp] theorem resetWith_noiseType (p : Config.Params) : (Chip.resetWith p).noiseType = 0 := rfl
@[simp] theorem resetWith_noiseReset (p : Config.Params) : (Chip.resetWith p).noiseReset = 0 := rfl
@[simp] theorem resetWith_noiseUpdate (p : Config.Params) : (Chip.resetWith p).noiseUpdate = 0 := rfl
@[simp] theorem resetWith_debugReg (p : Config.Params) : (Chip.resetWith p).debugReg = 0 := rfl

/-! ### State.reset -/

@[simp] theorem State_reset_chip : State.reset.chip = Chip.resetWith params := rfl
@[simp] theorem State_reset_calls : State.reset.calls = [] := rfl
@[simp] theorem State_reset_result : State.reset.result = .nothing := rfl

/-! ### params -/

@[simp] theorem params_noiseFbBit : params.noiseFbBit = 1 := rfl
@[simp] theorem params_noiseWhiteValue : params.noiseWhiteValue = 1 := rfl
@[simp] theorem params_noiseBasePeriod : params.noiseBasePeriod = 0x10 := rfl
@[simp] theorem params_resetLatch : params.resetLatch = 6 := rfl
@[simp] theorem params_resetSign : params.resetSign = 0b0000 := rfl
@[simp] theorem params_volumeLut : params.volumeLut = volumeLut := rfl

end Sys2Proof.Machine
end

