-- ==== Sys2Proof/Laws/Ops.lean ====
section
/-!
SUPPORT. For each composed operation of Machine/Ops.lean, what it does: the transaction's end, WRITE by the register it
lands on, TICK field by field, and the bit-level forms of the operands and flags.
-/

namespace Sys2Proof.Machine

/-- A transaction ends in the one next state that holds the chip's record and the Result it was given. -/
theorem complete_eq_next_iff (c : Chip) (r : Result) (s t : State) :
    complete c r s = .next t ↔ t = { s with chip := c, result := r } := by
  simp only [complete, Host.Outcome.next.injEq]; exact eq_comm

/-- Every value of `latch` selects a volume register, the noise control or a tone period. -/
theorem latch_cases (L : BitVec 3) :
    (latchIsVolume L = true) ∨ (latchIsVolume L = false ∧ latchChannel L = 3) ∨
      (latchIsVolume L = false ∧ latchChannel L ≠ 3) := by
  cases latchIsVolume L <;> by_cases h : latchChannel L = 3 <;> simp [h]

theorem writeRegister_volume (p : Config.Params) (b : Byte) (c : Chip) (h : latchIsVolume c.latch = true) :
    writeRegister p b c = writeVolume b c := by simp [writeRegister, h]

theorem writeRegister_noise (p : Config.Params) (b : Byte) (c : Chip) (h : latchIsVolume c.latch = false)
    (h' : latchChannel c.latch = 3) : writeRegister p b c = noiseControl p b c := by simp [writeRegister, h, h']

theorem writeRegister_tone (p : Config.Params) (b : Byte) (c : Chip) (h : latchIsVolume c.latch = false)
    (h' : latchChannel c.latch ≠ 3) : writeRegister p b c = writePeriod b c := by simp [writeRegister, h, h']

/-- What a WRITE can do: one of three register effects on the chip with its latch updated. -/
theorem writeByte_cases (p : Config.Params) (b : Byte) (c : Chip) :
    writeByte p b c = writeVolume b (selectRegister b c) ∨ writeByte p b c = noiseControl p b (selectRegister b c) ∨
      writeByte p b c = writePeriod b (selectRegister b c) := by
  rcases latch_cases (selectRegister b c).latch with h | ⟨h, h'⟩ | ⟨h, h'⟩
  · exact .inl (writeRegister_volume p b _ h)
  · exact .inr (.inl (writeRegister_noise p b _ h h'))
  · exact .inr (.inr (writeRegister_tone p b _ h h'))

/-! ### TICK, field by field -/

@[simp] theorem tickChip_latch (p : Config.Params) (c : Chip) : (tickChip p c).latch = c.latch := by simp [tickChip, clockNoise]
@[simp] theorem tickChip_volume (p : Config.Params) (c : Chip) : (tickChip p c).volume = c.volume := by simp [tickChip, clockNoise]
@[simp] theorem tickChip_output (p : Config.Params) (c : Chip) : (tickChip p c).output = c.output := by simp [tickChip, clockNoise]
@[simp] theorem tickChip_freq (p : Config.Params) (c : Chip) : (tickChip p c).freq = c.freq := by simp [tickChip, clockNoise]
@[simp] theorem tickChip_noiseData (p : Config.Params) (c : Chip) : (tickChip p c).noiseData = c.noiseData := by simp [tickChip, clockNoise]
@[simp] theorem tickChip_noiseType (p : Config.Params) (c : Chip) : (tickChip p c).noiseType = c.noiseType := by simp [tickChip, clockNoise]
@[simp] theorem tickChip_debugReg (p : Config.Params) (c : Chip) : (tickChip p c).debugReg = c.debugReg := by simp [tickChip, clockNoise]

@[simp] theorem tickChip_cycle (p : Config.Params) (c : Chip) : (tickChip p c).cycle = c.cycle + 1 := by simp [tickChip, clockNoise]

@[simp] theorem tickChip_noiseReset (p : Config.Params) (c : Chip) :
    (tickChip p c).noiseReset = c.noiseReset.extractLsb' 0 1 ++ 0#1 := by simp [tickChip, clockNoise]

@[simp] theorem tickChip_noiseUpdate (p : Config.Params) (c : Chip) :
    (tickChip p c).noiseUpdate = pushEdge c.noiseUpdate (noiseTap c) := by simp [tickChip, clockNoise]

@[simp] theorem injectedBit_sampleTap (p : Config.Params) (c : Chip) :
    injectedBit p (sampleTap c) = injectedBit p c := rfl

@[simp] theorem clockNoise_cycle (p : Config.Params) (c : Chip) : (clockNoise p c).cycle = c.cycle := by
  simp [clockNoise]

@[simp] theorem clockNoise_sign (p : Config.Params) (c : Chip) : (clockNoise p c).sign = c.sign := by simp [clockNoise]

@[simp] theorem clockNoise_inverse (p : Config.Params) (c : Chip) : (clockNoise p c).inverse = c.inverse := by
  simp [clockNoise]

@[simp] theorem clockNoise_freq (p : Config.Params) (c : Chip) : (clockNoise p c).freq = c.freq := by simp [clockNoise]

@[simp] theorem clockNoise_counter (p : Config.Params) (c : Chip) : (clockNoise p c).counter = c.counter := by
  simp [clockNoise]

/-- Noise clocking and polarity resolution move no counter and no period. -/
@[simp] theorem periodReached_before_count (p : Config.Params) (c : Chip) :
    periodReached (resolvePolarity (clockNoise p c)) = periodReached c := by
  unfold periodReached
  simp only [resolvePolarity_freq, resolvePolarity_counter, resolvePolarity_cycle, clockNoise_freq, clockNoise_counter,
    clockNoise_cycle]

@[simp] theorem tickChip_noise (p : Config.Params) (c : Chip) :
    (tickChip p c).noise =
      if c.noiseReset.getLsbD 1 then 0
      else if risingEdge (pushEdge c.noiseUpdate (noiseTap c)) then
        c.noise.extractLsb' 0 15 ++ BitVec.ofBool (injectedBit p c)
      else c.noise := by
  simp only [tickChip, clockNoise, advance_noise, countPeriod_noise, resolvePolarity_noise, clearNoise_noise,
    shiftNoise_noise, shiftNoise_noiseReset, sampleTap_noise, sampleTap_noiseReset, sampleTap_noiseUpdate,
    injectedBit_sampleTap]
  rfl

@[simp] theorem tickChip_sign (p : Config.Params) (c : Chip) :
    (tickChip p c).sign = if c.cycle = 0 then resolveSign c.sign c.inverse else c.sign := by
  simp only [tickChip, advance_sign, countPeriod_sign, resolvePolarity_sign, clockNoise_cycle, clockNoise_sign,
    clockNoise_inverse]

@[simp] theorem tickChip_counter (p : Config.Params) (c : Chip) :
    (tickChip p c).counter = c.counter.set (channelOf c.cycle)
      (if periodReached c then 0 else c.counter[channelOf c.cycle] + 1) := by
  simp only [tickChip, advance_counter, countPeriod_counter, periodReached_before_count, resolvePolarity_counter,
    resolvePolarity_cycle, clockNoise_cycle, clockNoise_counter]

@[simp] theorem tickChip_inverse (p : Config.Params) (c : Chip) :
    (tickChip p c).inverse =
      if periodReached c then setFlag (if c.cycle = 0 then 0 else c.inverse) (channelOf c.cycle)
      else if c.cycle = 0 then 0 else c.inverse := by
  simp only [tickChip, advance_inverse, countPeriod_inverse, periodReached_before_count, resolvePolarity_inverse,
    resolvePolarity_cycle, clockNoise_cycle, clockNoise_inverse]

/-! ### Flags -/

/-- Setting a flag sets it and keeps every other. -/
@[simp] theorem flag_setFlag (f : Flags4) (i j : Channel) : flag (setFlag f i) j = (flag f j || decide (i = j)) := by
  revert f i j; decide

/-- A resolution is an exclusive or, flag by flag. -/
@[simp] theorem flag_resolveSign (s v : Flags4) (i : Channel) : flag (resolveSign s v) i = (flag s i ^^ flag v i) := by
  simp [flag, resolveSign]

@[simp] theorem flag_zero (i : Channel) : flag 0#4 i = false := by simp [flag]

/-- A history holds a rising edge exactly if the tap was low and is high. -/
@[simp] theorem risingEdge_pushEdge (h : BitVec 2) (tap : Bool) :
    risingEdge (pushEdge h tap) = (!h.getLsbD 0 && tap) := by
  revert h tap; decide

/-- The counted channel has reached its period exactly if its counter, as a number, is no less. -/
theorem periodReached_iff (c : Chip) :
    periodReached c = true ↔ c.freq[channelOf c.cycle].toNat ≤ c.counter[channelOf c.cycle].toNat := by
  simp [periodReached, BitVec.le_def]

/-! ### The synthesizer -/

/-- REFRESH reads nothing of the cache. -/
theorem levelOf_output (c : Chip) (o : Vector Level 4) (i : Channel) : levelOf { c with output := o } i = levelOf c i := rfl

/-- REFRESH twice is REFRESH once. -/
@[simp] theorem refresh_refresh (c : Chip) : refresh (refresh c) = refresh c := rfl

/-- The cache after REFRESH, channel by channel. -/
theorem refresh_output_get (c : Chip) (i : Channel) : (refresh c).output[i] = levelOf c i := by
  fin_cases i <;> rfl

end Sys2Proof.Machine
end

