-- ==== Sys2Proof/Laws/Params.lean ====
section
/-!
SUPPORT. The open attenuation table meets R32's constraint whatever the free table is, and so this spec's parameters are legal.
-/

namespace Sys2Proof.Machine

theorem zeroLut_legal : lutLegal (Vector.replicate 17 0) = true := by decide

/-- R32: the attenuation table is legal, for every value of the free table. -/
theorem volumeLut_legal : lutLegal volumeLut = true := by
  unfold volumeLut
  split
  · assumption
  · exact zeroLut_legal

/-- The parameter values of R5 are legal. -/
theorem params_legal : paramsLegal params = true := by
  simp [paramsLegal, params, volumeLut_legal]

/-- Every entry of a legal table is finite and not -0.0. -/
theorem lutLegal_entry {t : Vector F32 17} (h : lutLegal t = true) (k : Nat) (hk : k < 17) :
    f32Finite t[k] = true ∧ t[k] ≠ f32NegZero := by
  simp only [lutLegal, Bool.and_eq_true, List.all_eq_true] at h
  have := h.1 t[k] (by simp)
  simpa using this

end Sys2Proof.Machine
end

