-- ==== Sys2Proof/Laws/PerInstr.lean ====
section
/-!
SUPPORT. A fact about each instruction as syntax, one lemma per constructor: its encoding is a call the decoder accepts under
every `latch`, and its operand fits the width its transaction carries (20_memory.md rule R42).
-/

namespace Sys2Proof.Laws.Accepted

open Sys2Proof

/-- The encoding of `i` is accepted under every `latch`, as some instruction, and its operand fits 16 bits. -/
def Statement (i : Instr) : Prop :=
  (∀ latch : BitVec 3, ∃ j, decodeTxn latch (encode i) = .ok j) ∧ (encode i).operand < 2 ^ 16

theorem ofByte (b : Byte) :
    (∀ latch : BitVec 3, ∃ j, decodeTxn latch ⟨1, b.toNat⟩ = .ok j) ∧ b.toNat < 2 ^ 16 :=
  ⟨fun _ => ⟨_, rfl⟩, Nat.lt_trans b.isLt (by decide)⟩

theorem latchTone (ch : BitVec 2) (n : BitVec 4) : Statement (.latchTone ch n) := ofByte _
theorem latchNoise (x : BitVec 1) (c : BitVec 3) : Statement (.latchNoise x c) := ofByte _
theorem latchVol (ch : BitVec 2) (a : BitVec 4) : Statement (.latchVol ch a) := ofByte _
theorem dataTone (x : BitVec 1) (h : BitVec 6) : Statement (.dataTone x h) := ofByte _
theorem dataNoise (x : BitVec 4) (c : BitVec 3) : Statement (.dataNoise x c) := ofByte _
theorem dataVol (x : BitVec 3) (a : BitVec 4) : Statement (.dataVol x a) := ofByte _
theorem reset : Statement .reset := ⟨fun _ => ⟨_, rfl⟩, by decide⟩
theorem tick : Statement .tick := ⟨fun _ => ⟨_, rfl⟩, by decide⟩
theorem readDigital : Statement .readDigital := ⟨fun _ => ⟨_, rfl⟩, by decide⟩
theorem readAnalog : Statement .readAnalog := ⟨fun _ => ⟨_, rfl⟩, by decide⟩
theorem setDebug (w : Half) : Statement (.setDebug w) := ⟨fun _ => ⟨_, rfl⟩, w.isLt⟩

end Sys2Proof.Laws.Accepted
end

