-- ==== Sys2Proof/Laws/Step.lean ====
section
/-!
SUPPORT. What decoding a call, fetching a slot and executing an instruction can do, said once for the later proofs.
-/

namespace Sys2Proof.Machine

/-- A call either has a tag that exists and decodes to an instruction, or has tag 6 or 7 and is rejected by that tag. -/
theorem decodeTxn_cases (latch : BitVec 3) (t : RawTxn) :
    (tagExists t = true ∧ ∃ i, decodeTxn latch t = .ok i) ∨
      (tagExists t = false ∧ decodeTxn latch t = .error (.badTag t.tag)) := by
  obtain ⟨tag, n⟩ := t
  have tags : ∀ g : BitVec 3, g = 0 ∨ g = 1 ∨ g = 2 ∨ g = 3 ∨ g = 4 ∨ g = 5 ∨ g = 6 ∨ g = 7 := by decide
  rcases tags tag with rfl | rfl | rfl | rfl | rfl | rfl | rfl | rfl
  all_goals first
    | exact .inl ⟨rfl, _, rfl⟩
    | exact .inr ⟨rfl, rfl⟩

theorem fetch_nil (c : Chip) (r : Result) : fetch ⟨c, [], r⟩ = .idle ⟨c, [], r⟩ := rfl

theorem fetch_empty_slot (c : Chip) (rest : List CallSlot) (r : Result) :
    fetch ⟨c, [] :: rest, r⟩ = .idle ⟨c, rest, r⟩ := rfl

theorem fetch_concurrent (c : Chip) (t u : RawTxn) (more : CallSlot) (rest : List CallSlot) (r : Result) :
    fetch ⟨c, (t :: u :: more) :: rest, r⟩ = .concurrent := rfl

theorem fetch_call (c : Chip) (t : RawTxn) (rest : List CallSlot) (r : Result) (i : Instr)
    (h : decodeTxn c.latch t = .ok i) : fetch ⟨c, [t] :: rest, r⟩ = .instr i ⟨c, rest, r⟩ := by
  simp [fetch, h]

theorem fetch_badTag (c : Chip) (t : RawTxn) (rest : List CallSlot) (r : Result) (g : BitVec 3)
    (h : decodeTxn c.latch t = .error (.badTag g)) : fetch ⟨c, [t] :: rest, r⟩ = .badTag g := by
  simp [fetch, h]

/-- Every instruction is a function of the chip's record alone, and ends in `complete`. -/
theorem exec_eq_complete (i : Instr) :
    ∃ (f : Chip → Chip) (g : Chip → Result), ∀ s, exec i s = complete (f s.chip) (g s.chip) s := by
  cases i with
  | latchTone ch n => exact ⟨writeByte params (latchToneByte ch n), fun _ => .nothing, fun _ => rfl⟩
  | latchNoise x c => exact ⟨writeByte params (latchNoiseByte x c), fun _ => .nothing, fun _ => rfl⟩
  | latchVol ch a => exact ⟨writeByte params (latchVolByte ch a), fun _ => .nothing, fun _ => rfl⟩
  | dataTone x h => exact ⟨writeByte params (dataToneByte x h), fun _ => .nothing, fun _ => rfl⟩
  | dataNoise x c => exact ⟨writeByte params (dataNoiseByte x c), fun _ => .nothing, fun _ => rfl⟩
  | dataVol x a => exact ⟨writeByte params (dataVolByte x a), fun _ => .nothing, fun _ => rfl⟩
  | reset => exact ⟨fun _ => Chip.resetWith params, fun _ => .nothing, fun _ => rfl⟩
  | tick => exact ⟨tickChip params, fun _ => .nothing, fun _ => rfl⟩
  | readDigital => exact ⟨refresh, fun c => .word (digitalSample (refresh c)), fun _ => rfl⟩
  | readAnalog => exact ⟨refresh, fun c => .single (analogSample params (refresh c)), fun _ => rfl⟩
  | setDebug w => exact ⟨setDebugField w, fun _ => .nothing, fun _ => rfl⟩

/-! ### Table words -/

theorem decodeTableWord_eq_some (nbits w : Nat) (i : Instr) (h : decodeTableWord nbits w = some i) :
    decodeTxn params.resetLatch (tableTxn nbits w) = .ok i := by
  unfold decodeTableWord at h
  split at h
  · rename_i j hj; rw [hj]; simpa using h
  · cases h

/-- Only a data byte is decoded by `latch`. -/
theorem decodeTxn_latch (latch latch' : BitVec 3) (t : RawTxn)
    (h : ¬(t.tag = 1 ∧ isLatchByte (truncByte t.operand) = false)) : decodeTxn latch t = decodeTxn latch' t := by
  by_cases h1 : t.tag = 1
  · have hb : isLatchByte (truncByte t.operand) = true := by
      cases hv : isLatchByte (truncByte t.operand)
      · exact absurd ⟨h1, hv⟩ h
      · rfl
    simp only [decodeTxn, decodeByte, hb, if_true]
  · simp only [decodeTxn, if_neg h1]

/-- The next fetch after placing a table word gives the instruction the decoder reads from it, in every state (log entries 3 and 4). -/
theorem fetch_withFetchWord (nbits w : Nat) (s : State) (i : Instr) (h : decodeTableWord nbits w = some i) :
    fetch (s.withFetchWord nbits w) =
      .instr i { s with chip := { s.chip with latch := tableLatch nbits w s.chip.latch } } := by
  have h' := decodeTableWord_eq_some nbits w i h
  have key : decodeTxn (tableLatch nbits w s.chip.latch) (tableTxn nbits w) = .ok i := by
    rw [← h']
    unfold tableLatch
    dsimp only
    split
    · rfl
    · rename_i hc; exact decodeTxn_latch _ _ _ hc
  exact fetch_call { s.chip with latch := tableLatch nbits w s.chip.latch } _ s.calls s.result i key

end Sys2Proof.Machine
end

