-- ==== Sys2Proof/Tests/Slice0.lean ====
section
/-!
SUPPORT. Tests: ill-formed terms refused, words written out from 30_encoding.md, one-step vectors of 95_test_vectors.md
(each named by its id there), additions worked by hand from IEEE 754, and for every statement of
Certificates/Slice0/Obligations.lean that has hypotheses a named state and operands that meet them.
-/

namespace Sys2Proof.Tests

open Sys2Proof Sys2Proof.Machine

/-! ### Helpers -/

/-- The chip as reset leaves it. -/
def chip0 : Chip := Chip.resetWith params

/-- The machine with a given chip, no calls and no Result. -/
def ofChip (c : Chip) : State := { State.reset with chip := c }

/-- The chip after one instruction. -/
def after (i : Instr) (c : Chip) : Chip :=
  match exec i (ofChip c) with
  | .next t => t.chip
  | _ => c

/-- The chip after one WRITE of a byte. -/
def wrote (b : Byte) (c : Chip) : Chip := after (decodeByte c.latch b) c

/-- The Result of one instruction. -/
def answer (i : Instr) (c : Chip) : Option Result :=
  match exec i (ofChip c) with
  | .next t => some t.result
  | _ => none

/-- The pre-state of V-S2. -/
def chipS2 : Chip := { chip0 with sign := 0b0101, noise := 0x4000, volume := #v[3, 4, 5, 6] }

/-- The example table `EX` of 95_test_vectors.md: 15 - k for k = 0 to 15, then 0.5. -/
def exTable : Vector F32 17 :=
  #v[0x41700000, 0x41600000, 0x41500000, 0x41400000, 0x41300000, 0x41200000, 0x41100000, 0x41000000, 0x40E00000,
    0x40C00000, 0x40A00000, 0x40800000, 0x40400000, 0x40000000, 0x3F800000, 0x00000000, 0x3F000000]

/-- The parameters with the table `EX`. -/
def exParams : Config.Params := { params with volumeLut := exTable }

/-- The analog sample of a chip under the table `EX`. -/
def exSample (c : Chip) : F32 := analogSample exParams (refresh c)

/-! ### Well-formedness and decoding -/

/-- The check of LATCH_TONE refuses channel 3 (R66: ch is 0, 1 or 2) and accepts channel 2. -/
theorem test_wellFormed_refuses_tone_three :
    (Instr.latchTone 3 5).wellFormed = false ∧ (Instr.latchTone 2 5).wellFormed = true := by decide

/-- The check of the decoding mode refuses each data mnemonic under a latch that is not its own (R53). -/
theorem test_fitsLatch_refuses_other_modes :
    (Instr.dataTone 0 5).fitsLatch 6 = false ∧ (Instr.dataTone 0 5).fitsLatch 1 = false ∧
    (Instr.dataNoise 0 5).fitsLatch 4 = false ∧ (Instr.dataNoise 0 5).fitsLatch 7 = false ∧
    (Instr.dataVol 0 5).fitsLatch 6 = false ∧ (Instr.dataVol 0 5).fitsLatch 7 = true := by decide

/-- One byte of each WRITE form, bit by bit from the table of R53: `1 10 0 1111`, `1110 1 110`, `1 01 1 0100`,
`0 1 000101` under latch 4, `0 1111 011` under latch 6, `0 010 1100` under latch 7. -/
theorem test_decode_write_bytes :
    decodeTxn 7 ⟨1, 0b11001111⟩ = .ok (.latchTone 2 15) ∧ decodeTxn 0 ⟨1, 0b11101110⟩ = .ok (.latchNoise 1 6) ∧
    decodeTxn 0 ⟨1, 0b10110100⟩ = .ok (.latchVol 1 4) ∧ decodeTxn 4 ⟨1, 0b01000101⟩ = .ok (.dataTone 1 5) ∧
    decodeTxn 6 ⟨1, 0b01111011⟩ = .ok (.dataNoise 15 3) ∧ decodeTxn 7 ⟨1, 0b00101100⟩ = .ok (.dataVol 2 12) := by
  decide

/-- The other transactions by their tags (R50), the debug word whole (R60). -/
theorem test_decode_tags :
    decodeTxn 6 ⟨0b000, 0⟩ = .ok .reset ∧ decodeTxn 6 ⟨0b010, 0⟩ = .ok .tick ∧
    decodeTxn 6 ⟨0b011, 0⟩ = .ok .readDigital ∧ decodeTxn 6 ⟨0b100, 0⟩ = .ok .readAnalog ∧
    decodeTxn 6 ⟨0b101, 0b1111101111111111⟩ = .ok (.setDebug 0xFBFF) := by decide

/-- Tags 6 and 7 are refused (R50). -/
theorem test_decode_refuses_tags :
    decodeTxn 6 ⟨0b110, 0⟩ = .error (.badTag 6) ∧ decodeTxn 6 ⟨0b111, 0⟩ = .error (.badTag 7) ∧
    step { State.reset with calls := [[⟨6, 0⟩]] } = .refused (.badTag 6) := ⟨rfl, rfl, rfl⟩

/-- A wider host integer is truncated (R42). -/
theorem test_decode_truncates :
    decodeTxn 0 ⟨1, 0x18A⟩ = .ok (.latchTone 0 10) ∧ decodeTxn 0 ⟨5, 0x30A00⟩ = .ok (.setDebug 0x0A00) := by decide

/-- The encoder, on the assembler's bytes of R63: `lt 0, 10` is 0x8A, `ln 7` is 0xE7, `lv 1, 15` is 0xBF. -/
theorem test_encode :
    encode (.latchTone 0 10) = ⟨1, 0x8A⟩ ∧ encode (.latchNoise 0 7) = ⟨1, 0xE7⟩ ∧ encode (.latchVol 1 15) = ⟨1, 0xBF⟩ ∧
    encode (.dataTone 0 5) = ⟨1, 0x05⟩ ∧ encode (.dataNoise 0 5) = ⟨1, 0x05⟩ ∧ encode (.dataVol 0 4) = ⟨1, 0x04⟩ ∧
    encode .tick = ⟨2, 0⟩ ∧ encode (.setDebug 0x0A00) = ⟨5, 0x0A00⟩ := by decide

/-- Table words, and the step that runs one after reset. -/
theorem test_table_words :
    decodeTableWord 8 0xC0 = some (.latchTone 2 0) ∧ decodeTableWord 8 0xE7 = some (.latchNoise 0 7) ∧
    decodeTableWord 8 0xF0 = some (.latchVol 3 0) ∧ decodeTableWord 8 2 = some .tick ∧
    decodeTableWord 8 7 = some (.dataNoise 0 7) ∧ decodeTableWord 24 0x0A0005 = some (.setDebug 0x0A00) := by decide

/-- The placed word is what the next step runs. -/
theorem test_withFetchWord_runs :
    fetch (State.withFetchWord State.reset 8 0xC5) = .instr (.latchTone 2 5) State.reset ∧
    fetch (State.withFetchWord State.reset 8 3) = .instr .readDigital State.reset := ⟨rfl, rfl⟩

/-- An idle moment changes nothing and concurrent calls are refused (R113, R47). -/
theorem test_idle_and_concurrent :
    step State.reset = .next State.reset ∧
    step { State.reset with calls := [[⟨2, 0⟩, ⟨2, 0⟩]] } = .refused .concurrentCalls := ⟨rfl, rfl⟩

/-! ### The assembler (R63) -/

/-- `tone 0, 0x5A` is two bytes, in R54's order: the low nibble first, then the upper six bits. -/
theorem test_assembler_tone : assembleLine "tone 0, 0x5A ; a period".toList = some [⟨1, 0x8A⟩, ⟨1, 0x05⟩] := by decide

/-- Operands out of range are errors, never masked; `dbg.iso 2` is the word 0x0A00 (P3). -/
theorem test_assembler_ranges :
    assembleLine "lt 3, 0".toList = none ∧ assembleLine "dv 16".toList = none ∧
    assembleLine "dbg.iso 2".toList = some [⟨5, 0x0A00⟩] ∧
    assemble ["vol 3, 0".toList, "noise 0".toList, "ticks 2".toList, "rdd".toList] =
      some [⟨1, 0xF0⟩, ⟨1, 0xE0⟩, ⟨2, 0⟩, ⟨2, 0⟩, ⟨3, 0⟩] := by decide

/-! ### WRITE (95_test_vectors.md L2.1) -/

/-- R66's example, 0x8A, and V-W13, 0xCF. -/
theorem test_latchTone :
    (wrote 0x8A chip0).latch = 0 ∧ (wrote 0x8A chip0).freq = #v[0x00A, 0, 0, 0x010] ∧
    (wrote 0xCF chip0).latch = 4 ∧ (wrote 0xCF chip0).freq[2] = 0x00F := by decide

/-- V-W8 and V-W8b: 0x8A then 0x7F gives 0x3FA, 0x8A then 0x40 gives 0x00A. -/
theorem test_dataTone :
    (wrote 0x7F (wrote 0x8A chip0)).freq[0] = 0x3FA ∧ (wrote 0x40 (wrote 0x8A chip0)).freq[0] = 0x00A := by decide

/-- V-W6, 0xE6, and V-W7, 0xE3. -/
theorem test_latchNoise :
    (wrote 0xE6 chip0).noiseData = 6 ∧ (wrote 0xE6 chip0).noiseType = 1 ∧ (wrote 0xE6 chip0).freq[3] = 0x040 ∧
    (wrote 0xE6 chip0).noiseReset = 0b01 ∧ (wrote 0xE3 chip0).freq[3] = 0 ∧ (wrote 0xE3 chip0).noiseType = 1 := by decide

/-- V-W15, a pending clear is kept, and V-W16, `b[3]` is ignored. -/
theorem test_latchNoise_pending :
    (wrote 0xE0 { chip0 with noiseReset := 0b10 }).noiseReset = 0b11 ∧
    (wrote 0xE8 chip0).noiseData = 0 ∧ (wrote 0xE8 chip0).freq[3] = 0x010 := by decide

/-- Data byte 0x05 under latch 6 (P4, run B), and V-W11, 0x00. -/
theorem test_dataNoise :
    (wrote 0x05 chip0).noiseData = 5 ∧ (wrote 0x05 chip0).noiseType = 0 ∧ (wrote 0x05 chip0).freq[3] = 0x020 ∧
    (wrote 0x00 chip0).freq[3] = 0x010 ∧ (wrote 0x00 chip0).noiseReset = 0b01 := by decide

/-- V-W10, 0xF0, and V-W14, 0xBF. -/
theorem test_latchVol :
    (wrote 0xF0 chip0).latch = 7 ∧ (wrote 0xF0 chip0).volume = #v[15, 15, 15, 0] ∧ (wrote 0xF0 chip0).noiseReset = 0 ∧
    (wrote 0xBF chip0).latch = 3 ∧ (wrote 0xBF chip0).volume[1] = 15 := by decide

/-- V-W12, 0xF0 then 0x2C. -/
theorem test_dataVol : (wrote 0x2C (wrote 0xF0 chip0)).volume = #v[15, 15, 15, 12] := by decide

/-! ### TICK (95_test_vectors.md L2.2) -/

/-- V-T3, V-T14 and V-T15: overflow above the period, the exclusive or at the round boundary, an overflow beside it. -/
theorem test_tick_periods :
    (let c := after .tick { chip0 with freq := #v[0, 3, 0, 0x010], counter := #v[0, 5, 0, 0], cycle := 1, inverse := 0 }
     c.counter[1] = 0 ∧ c.inverse = 0b0010 ∧ c.cycle = 2) ∧
    (let c := after .tick { chip0 with sign := 0b0101, inverse := 0b0011, freq := #v[0x010, 0, 0, 0x010], noiseUpdate := 0b11 }
     c.sign = 0b0110 ∧ c.inverse = 0 ∧ c.counter[0] = 1 ∧ c.noiseUpdate = 0b10) ∧
    (let c := after .tick { chip0 with
       sign := 0b0101, inverse := 0b0011, freq := #v[0x010, 0, 0, 0x010], counter := #v[0x010, 0, 0, 0], noiseUpdate := 0b01 }
     c.sign = 0b0110 ∧ c.inverse = 0b0001 ∧ c.counter[0] = 0) := by decide

/-- V-T5, V-T6, V-T7, V-T8, V-T9 and V-T10: the clear over a shift, the injected bit, the white taps, the tap of code 3. -/
theorem test_tick_noise :
    (after .tick { chip0 with noise := 0x1234, noiseReset := 0b10, sign := 0b1000, cycle := 1, inverse := 0 }).noise = 0 ∧
    (after .tick { chip0 with noise := 0x8000, sign := 0b1000, cycle := 1, inverse := 0 }).noise = 0x0001 ∧
    (after .tick { chip0 with noise := 0x8000, noiseType := 1, sign := 0b1000, cycle := 1, inverse := 0 }).noise = 0x0001 ∧
    (after .tick { chip0 with noise := 0x1000, noiseType := 1, sign := 0b1000, cycle := 1, inverse := 0 }).noise = 0x2001 ∧
    (after .tick { chip0 with noise := 0x1000, sign := 0b1000, cycle := 1, inverse := 0 }).noise = 0x2000 ∧
    (after .tick { chip0 with noise := 0x0003, noiseData := 3, sign := 0b0100, cycle := 1, inverse := 0 }).noise = 0x0006 := by
  decide

/-! ### The sample synthesizer (95_test_vectors.md L2.3) -/

/-- V-S2 and V-S9: gating by the polarities and by LFSR bit 14. -/
theorem test_readDigital :
    answer .readDigital chipS2 = some (.word 0x3F56) ∧ (after .readDigital chipS2).output = #v[3, 15, 5, 6] ∧
    answer .readDigital { chip0 with noise := 0xBFFF, volume := #v[15, 15, 15, 0] } = some (.word 0xFFFF) := by decide

/-- V-S3: test mode ignores the gates. -/
theorem test_readDigital_testMode : answer .readDigital { chipS2 with debugReg := 0b001 } = some (.word 0x3456) := by decide

/-- V-S5, V-S11 with the table `EX`: 12 + 0 + 10 + 9 is 31.0, and 15.0. -/
theorem test_analog_normal :
    exSample chipS2 = 0x41F80000 ∧
    exSample { chip0 with sign := 0b0001, volume := #v[0, 15, 15, 15] } = 0x41700000 := by decide

/-- V-S10 with the table `EX`: 13.5, 11.5, 12.5, 10.5. -/
theorem test_analog_testMode :
    exSample { chipS2 with debugReg := 0b001 } = 0x41580000 ∧ exSample { chipS2 with debugReg := 0b011 } = 0x41380000 ∧
    exSample { chipS2 with debugReg := 0b101 } = 0x41480000 ∧ exSample { chipS2 with debugReg := 0b111 } = 0x41280000 := by decide

/-- V-S6, 0xF1FF, and R98's example, 0x0A00. -/
theorem test_setDebug :
    (after (.setDebug 0xF1FF) { chip0 with debugReg := 7 }).debugReg = 0b000 ∧ (after (.setDebug 0x0A00) chip0).debugReg = 0b101 := by
  decide

/-- IEEE 754 by hand, in units of the last place: 2^24 + 1 ties down to even, 2^24 + 3 ties up to even, the largest value
doubled overflows, 1 - 1 is +0, -0 + -0 is -0, and the least subnormal doubled is exact. -/
theorem test_f32Add :
    f32Add 0x4B800000 0x3F800000 = 0x4B800000 ∧ f32Add 0x4B800000 0x40400000 = 0x4B800002 ∧
    f32Add 0x7F7FFFFF 0x7F7FFFFF = 0x7F800000 ∧ f32Add 0x3F800000 0xBF800000 = 0 ∧
    f32Add 0x80000000 0x80000000 = 0x80000000 ∧ f32Add 0x00000001 0x00000001 = 0x00000002 := by decide

/-! ### RESET (95_test_vectors.md L2.4) -/

/-- V-R1 from a state with every field moved, on three of its fields. -/
theorem test_reset :
    (after .reset { chipS2 with latch := 3, debugReg := 5, inverse := 0 }).latch = 6 ∧
    (after .reset { chipS2 with latch := 3, debugReg := 5, inverse := 0 }).inverse = 0b1111 ∧
    (after .reset { chipS2 with latch := 3, debugReg := 5, inverse := 0 }).freq = #v[0, 0, 0, 0x010] := by decide

/-! ### Witnesses: the hypotheses of the statements can be met -/

theorem witness_DecodeEncodeRoundTrip : (Instr.latchTone 2 15).wellFormed = true ∧ (Instr.latchTone 2 15).fitsLatch 7 = true ∧
    (Instr.dataNoise 15 7).wellFormed = true ∧ (Instr.dataNoise 15 7).fitsLatch 6 = true := by decide

theorem witness_EncodeDecodeRoundTrip : decodeTxn 6 ⟨1, 0x1FF⟩ = .ok (.latchVol 3 15) ∧ decodeTxn 6 ⟨4, 9⟩ = .ok .readAnalog := by
  decide

/-- A byte and a latch for each clause, the last tone register, the noise control and the last volume register. -/
theorem witness_WrittenByteForms :
    ((0xC0 : Byte).getLsbD 7 = true ∧ (0xC0 : Byte).extractLsb' 4 3 = 4) ∧
    ((0xE0 : Byte).getLsbD 7 = true ∧ (0xE0 : Byte).extractLsb' 4 3 = 6) ∧
    ((0xF0 : Byte).getLsbD 7 = true ∧ (0xF0 : Byte).extractLsb' 4 3 = 7) ∧
    (0x7F : Byte).getLsbD 7 = false := by decide

theorem witness_ReadAndIgnoredBits :
    (2 : BitVec 2) ≠ 3 ∧ (ofChip { chip0 with latch := 4 }).chip.latch = 4 ∧ (ofChip chip0).chip.latch = 6 ∧
    (ofChip { chip0 with latch := 7 }).chip.latch = 7 := by decide

theorem witness_StepRunsTheDecodedTransaction : decodeTxn State.reset.chip.latch ⟨1, 0x07⟩ = .ok (.dataNoise 0 7) := by decide

theorem witness_SerializedHostNeverStops : SafeCalls { State.reset with calls := [[⟨1, 0x8A⟩], [], [⟨5, 0x200⟩]] } := by
  intro slot h
  simp only [List.mem_cons, List.not_mem_nil, or_false] at h
  rcases h with rfl | rfl | rfl <;> decide

/-- A latch byte and a data byte that reach the volume of channel 3. -/
theorem witness_VolumeWritesAreUnconditional :
    (if (0xF4 : Byte).getLsbD 7 then (0xF4 : Byte).extractLsb' 4 3 else chip0.latch) = (3 : BitVec 2) ++ 1#1 ∧
    (if (0x04 : Byte).getLsbD 7 then (0x04 : Byte).extractLsb' 4 3 else ({ chip0 with latch := 7 } : Chip).latch) =
      (3 : BitVec 2) ++ 1#1 := by decide

theorem witness_LatchToneEffect : (2 : BitVec 2) ≠ 3 ∧ ({ chip0 with cycle := 2 } : Chip).cycle = (2 : BitVec 2) := by decide

theorem witness_DataToneEffect : (ofChip { chip0 with latch := 4 }).chip.latch = 4 := by decide

theorem witness_DataNoiseEffect : State.reset.chip.latch = 6 := by decide

theorem witness_LatchVolEffect : State.reset.chip.debugReg.getLsbD 0 = false := by decide

theorem witness_DataVolEffect : (ofChip { chip0 with latch := 7 }).chip.latch.getLsbD 0 = true := by decide

theorem witness_TwoBytePeriodWrite :
    (2 : BitVec 2) ≠ 3 ∧ (ofChip { chip0 with latch := 4 }).chip.latch = (2 : BitVec 2) ++ 0#1 := by decide

/-- Both clauses: the same register, and another one. -/
theorem witness_OppositeOrderWritesThePreviousRegister :
    (2 : BitVec 2) ≠ 3 ∧ (0 : BitVec 2) ≠ 3 ∧ (ofChip { chip0 with latch := 4 }).chip.latch = (2 : BitVec 2) ++ 0#1 ∧
    (2 : BitVec 2) = 2 ∧ (2 : BitVec 2) ≠ 0 := by decide

theorem witness_TonePseudoSetsThePeriod : 2 ≤ 2 ∧ 0x3FF ≤ 0x3FF := by decide

/-- Both clauses: a round boundary and the last channel of a round. -/
theorem witness_PolarityResolution : chip0.cycle = 0 ∧ ({ chip0 with cycle := 3 } : Chip).cycle ≠ 0 := by decide

/-- Both clauses at the boundary: the counter at its period, and one below it. -/
theorem witness_PeriodCounting :
    (3 : Channel) = channelOf ({ chip0 with cycle := 3 } : Chip).cycle ∧
    (({ chip0 with counter := #v[0, 0, 0, 0x010] } : Chip).freq[3].toNat ≤
      ({ chip0 with counter := #v[0, 0, 0, 0x010] } : Chip).counter[3].toNat) ∧
    (({ chip0 with counter := #v[0, 0, 0, 0x00F] } : Chip).counter[3].toNat <
      ({ chip0 with counter := #v[0, 0, 0, 0x00F] } : Chip).freq[3].toNat) := by decide

theorem witness_TickFrame : Instr.readAnalog ≠ .tick ∧ Instr.readAnalog ≠ .reset ∧ (3 : Channel) ≠ channelOf chip0.cycle := by
  decide

theorem witness_SimultaneousEffectsOfOneTick :
    ({ chip0 with noiseReset := 0b10 } : Chip).noiseReset.getLsbD 1 = true ∧ chip0.cycle = 0 ∧
    chip0.freq[0].toNat ≤ chip0.counter[0].toNat := by decide

theorem witness_NoiseWriteClearsAtTheSecondTick :
    (if (0xE7 : Byte).getLsbD 7 then (0xE7 : Byte).extractLsb' 4 3 else chip0.latch) = 6 ∧
    (if (0x07 : Byte).getLsbD 7 then (0x07 : Byte).extractLsb' 4 3 else chip0.latch) = 6 := by decide

/-- V-T6's pre-state, and its like under rate code 3. -/
theorem witness_LfsrSelfRecovery :
    (let c : Chip := { chip0 with noise := 0x8000, sign := 0b1000 }
     c.noise.extractLsb' 0 15 = 0 ∧ c.noiseUpdate.getLsbD 0 = false ∧
       (if c.noiseData.extractLsb' 0 2 = 3 then c.sign.getLsbD 2 else c.sign.getLsbD 3) = true ∧
       c.noiseReset.getLsbD 1 = false) ∧
    (let c : Chip := { chip0 with noise := 0, noiseData := 3, sign := 0b0100 }
     c.noise.extractLsb' 0 15 = 0 ∧ c.noiseUpdate.getLsbD 0 = false ∧
       (if c.noiseData.extractLsb' 0 2 = 3 then c.sign.getLsbD 2 else c.sign.getLsbD 3) = true ∧
       c.noiseReset.getLsbD 1 = false) := by decide

theorem witness_PeriodicNoiseIsASixteenCycle :
    15 < 16 ∧ chip0.noiseType ≠ params.noiseWhiteValue ∧ risingEdge ({ chip0 with noiseUpdate := 0b01 } : Chip).noiseUpdate = true ∧
    ({ chip0 with noise := 0x8000 } : Chip).noise = 1#16 <<< 15 := by decide

theorem witness_FlipLatency : channelOf chip0.cycle = 0 ∧ chip0.freq[0].toNat ≤ chip0.counter[0].toNat ∧ 1 ≤ 4 ∧
    channelOf ({ chip0 with cycle := 2 } : Chip).cycle = 2 ∧ chip0.freq[2].toNat ≤ chip0.counter[2].toNat := by decide

/-- From reset, channel 3 with its period of 0x010: its pending flip stands for an overflow. -/
theorem witness_SquareWaveHalfPeriod : chip0.cycle = 0 ∧ chip0.counter[3] = 0 ∧ flag chip0.inverse 3 = true ∧
    1 ≤ 68 ∧ 68 ≤ 4 * (chip0.freq[3].toNat + 1) := by decide

/-- The period lowered from 0x3F0 to 0x3F0's upper bits with low nibble 0, at a counter equal to it. -/
theorem witness_LoweredPeriodOverflowsAtTheNextVisit :
    (let c : Chip := { chip0 with freq := #v[0x3FF, 0, 0, 0x010], counter := #v[0x3F0, 0, 0, 0] }
     channelOf c.cycle = 0 ∧ (wrote 0x80 c).freq[0].toNat ≤ c.counter[0].toNat) := by decide

theorem witness_RefreshGates :
    chipS2.sign = 0b0101 ∧ chipS2.noise = 0x4000 ∧ chipS2.volume = #v[3, 4, 5, 6] ∧ chipS2.debugReg = 0 ∧
    chipS2.debugReg.getLsbD 0 = false ∧ ({ chipS2 with debugReg := 0b001 } : Chip).debugReg.getLsbD 0 = true := by decide

theorem witness_ReadDigitalResult :
    chip0.volume = #v[15, 15, 15, 15] ∧ ({ chip0 with debugReg := 0b111 } : Chip).debugReg.getLsbD 0 = true ∧
    chipS2.sign = 0b0101 ∧ chipS2.noise = 0x4000 ∧ chipS2.volume = #v[3, 4, 5, 6] ∧ chipS2.debugReg = 0 := by decide

theorem witness_ReadAnalogResult :
    ({ chipS2 with debugReg := 0b101 } : Chip).debugReg = 0b101 ∧ ({ chipS2 with debugReg := 0b101 } : Chip).debugReg.getLsbD 0 = true := by
  decide

theorem witness_TestModeIsolatesOneChannel :
    ({ chipS2 with debugReg := 0b001 } : Chip).debugReg = 0b001 ∧ ({ chipS2 with debugReg := 0b011 } : Chip).debugReg = 0b011 ∧
    ({ chipS2 with debugReg := 0b101 } : Chip).debugReg = 0b101 ∧ ({ chipS2 with debugReg := 0b111 } : Chip).debugReg = 0b111 := by decide

theorem witness_SideEffects : Instr.readAnalog = .readDigital ∨ Instr.readAnalog = .readAnalog := by decide

theorem witness_ReadsInAnyMixAgree :
    (Instr.readDigital = .readDigital ∨ Instr.readDigital = .readAnalog) ∧
    (Instr.readAnalog = .readDigital ∨ Instr.readAnalog = .readAnalog) := by decide

theorem witness_DebugIndexInertInNormalMode : chip0.debugReg.getLsbD 0 = false ∧ (0b110 : BitVec 3).getLsbD 0 = false := by decide

theorem witness_StaleCacheIsInvisible : Instr.readDigital = .readDigital ∨ Instr.readDigital = .readAnalog := by decide

/-- Finite operands with a finite sum, and one that ties. -/
theorem witness_AdditionRoundsToNearestEven :
    f32Finite 0x4B800000 = true ∧ f32Finite 0x3F800000 = true ∧ f32Finite (f32Add 0x4B800000 0x3F800000) = true ∧
    f32Finite 0x4B800001 = true ∧ f32Scaled 0x4B800001 ≠ f32Scaled (f32Add 0x4B800000 0x3F800000) ∧
    (f32Scaled 0x4B800001 - (f32Scaled 0x4B800000 + f32Scaled 0x3F800000)).natAbs =
      (f32Scaled (f32Add 0x4B800000 0x3F800000) - (f32Scaled 0x4B800000 + f32Scaled 0x3F800000)).natAbs := by decide

/-- The table `EX` is legal (R32) and within the bound. -/
theorem witness_AnalogSampleIsFinite :
    paramsLegal exParams = true ∧
    ∀ k : Fin 17, f32Finite exParams.volumeLut[k] = true ∧ f32Magnitude exParams.volumeLut[k] < 2 ^ 125 * 2 ^ 149 := by decide

theorem witness_OnlyTheNamedWritersWrite :
    Instr.tick ≠ .reset ∧ (encode .tick).tag ≠ 1 ∧ (encode .tick).tag ≠ 5 ∧ Instr.setDebug 0 ≠ .tick ∧
    Instr.tick ≠ .readDigital ∧ Instr.tick ≠ .readAnalog ∧ ({ chip0 with noiseReset := 1 } : Chip).noiseReset.getLsbD 0 = true := by
  decide

theorem witness_EveryStepKeepsTheFieldRelations : State.reset.Inv ∧ step State.reset = .next State.reset :=
  ⟨⟨⟨by decide, by decide⟩, fun h => absurd rfl h⟩, rfl⟩

/-- The invariant inside a round, with a flip pending, after a noise-control byte of rate code 3. -/
theorem witness_ZeroNoisePeriodMeansRateCodeThree :
    (ofChip { chip0 with cycle := 2, inverse := 0b0011, noiseData := 7, noiseType := 1, freq := #v[0, 0, 0, 0] }).Inv :=
  ⟨⟨by decide, by decide⟩, fun _ => by decide⟩

end Sys2Proof.Tests
end

section
/-!
The Result of each instruction as a function of the chip's record, and that every instruction completes (00_scope.md rule R8).
-/

namespace Sys2Proof.Machine

/-- The Result an instruction returns: a read answers from the refreshed chip (R95, R96), every other one returns nothing. -/
def instrResult (i : Instr) (c : Chip) : Result :=
  match i with
  | .readDigital => .word (digitalSample (refresh c))
  | .readAnalog => .single (analogSample params (refresh c))
  | _ => .nothing

/-- An instruction touches the host's interface only by its Result: whatever it does to the chip, it ends in `complete` with
`instrResult`. -/
theorem exec_eq_complete_instrResult (i : Instr) (s : State) :
    ∃ c, exec i s = complete c (instrResult i s.chip) s := by
  cases i with
  | latchTone ch n => exact ⟨_, rfl⟩
  | latchNoise x c => exact ⟨_, rfl⟩
  | latchVol ch a => exact ⟨_, rfl⟩
  | dataTone x h => exact ⟨_, rfl⟩
  | dataNoise x c => exact ⟨_, rfl⟩
  | dataVol x a => exact ⟨_, rfl⟩
  | reset => exact ⟨_, rfl⟩
  | tick => exact ⟨_, rfl⟩
  | readDigital => exact ⟨_, rfl⟩
  | readAnalog => exact ⟨_, rfl⟩
  | setDebug w => exact ⟨_, rfl⟩

/-- No instruction fails: it has a next state, which keeps the later calls and holds the instruction's Result. -/
theorem exec_completes (i : Instr) (s : State) :
    ∃ t, exec i s = .next t ∧ t.calls = s.calls ∧ t.result = instrResult i s.chip := by
  obtain ⟨c, hc⟩ := exec_eq_complete_instrResult i s
  exact ⟨_, hc, rfl, rfl⟩

/-- Settles O14: every instruction completes with `instrResult`, whose kind is read off the constructor. -/
theorem noOperationFails : Obligations.NoOperationFails := by
  intro i s
  obtain ⟨t, hexec, hcalls, hresult⟩ := exec_completes i s
  refine ⟨t, hexec, hcalls, ?_⟩
  cases i with
  | readDigital => exact ⟨_, hresult⟩
  | readAnalog => exact ⟨_, hresult⟩
  | _ => exact hresult

end Sys2Proof.Machine
end

section
/-!
What each transaction may change in the chip's record (20_memory.md rule R43), and that a read made again at once finds the
cache it left.
-/

namespace Sys2Proof.Machine

/-! ### WRITE

Each of the six forms of a written byte, put together again from the fields the decoder reads, is that byte (R51, R52). -/

theorem latchVolByte_fields : ∀ b : Byte, isLatchByte b = true → b.getLsbD 4 = true →
    latchVolByte (b.extractLsb' 5 2) (b.extractLsb' 0 4) = b := by decide

theorem latchNoiseByte_fields : ∀ b : Byte, isLatchByte b = true → b.getLsbD 4 = false → b.extractLsb' 5 2 = 3 →
    latchNoiseByte (b.extractLsb' 3 1) (b.extractLsb' 0 3) = b := by decide

theorem latchToneByte_fields : ∀ b : Byte, isLatchByte b = true → b.getLsbD 4 = false →
    latchToneByte (b.extractLsb' 5 2) (b.extractLsb' 0 4) = b := by decide

theorem dataVolByte_fields : ∀ b : Byte, isLatchByte b = false →
    dataVolByte (b.extractLsb' 4 3) (b.extractLsb' 0 4) = b := by decide

theorem dataNoiseByte_fields : ∀ b : Byte, isLatchByte b = false →
    dataNoiseByte (b.extractLsb' 3 4) (b.extractLsb' 0 3) = b := by decide

theorem dataToneByte_fields : ∀ b : Byte, isLatchByte b = false →
    dataToneByte (b.extractLsb' 6 1) (b.extractLsb' 0 6) = b := by decide

/-- The instruction a byte decodes to is the WRITE of that byte, under every `latch` it is decoded by (R53, R65). -/
theorem exec_decodeByte (latch : BitVec 3) (b : Byte) (s : State) :
    exec (decodeByte latch b) s = complete (writeByte params b s.chip) .nothing s := by
  unfold decodeByte
  split
  next hlatch =>
    split
    next h4 => simp only [exec, execLatchVol, latchVolByte_fields b hlatch h4]
    next h4 =>
      have h4 : b.getLsbD 4 = false := by simpa using h4
      split
      next h3 => simp only [exec, execLatchNoise, latchNoiseByte_fields b hlatch h4 h3]
      next => simp only [exec, execLatchTone, latchToneByte_fields b hlatch h4]
  next hdata =>
    have hdata : isLatchByte b = false := by simpa using hdata
    split
    next => simp only [exec, execDataVol, dataVolByte_fields b hdata]
    next =>
      split
      next => simp only [exec, execDataNoise, dataNoiseByte_fields b hdata]
      next => simp only [exec, execDataTone, dataToneByte_fields b hdata]

/-- A WRITE changes at most `latch`, `volume`, `freq` and the noise configuration with its clear request (R43, R75). -/
theorem writeByte_frame (p : Config.Params) (b : Byte) (c : Chip) :
    writeByte p b c = { c with
      latch := (writeByte p b c).latch, volume := (writeByte p b c).volume, freq := (writeByte p b c).freq,
      noiseData := (writeByte p b c).noiseData, noiseType := (writeByte p b c).noiseType,
      noiseReset := (writeByte p b c).noiseReset } := by
  obtain h | h | h := writeByte_cases p b c
  · rw [h]; rfl
  · rw [h]; rfl
  · rw [h]; rfl

/-! ### TICK -/

/-- A TICK changes at most the oscillators' and the LFSR's own fields (R43). -/
theorem tickChip_frame (p : Config.Params) (c : Chip) :
    tickChip p c = { c with
      noiseUpdate := (tickChip p c).noiseUpdate, noise := (tickChip p c).noise, sign := (tickChip p c).sign,
      inverse := (tickChip p c).inverse, counter := (tickChip p c).counter, cycle := (tickChip p c).cycle,
      noiseReset := (tickChip p c).noiseReset } := by
  rw [← tickChip_latch p c, ← tickChip_volume p c, ← tickChip_output p c, ← tickChip_freq p c, ← tickChip_noiseData p c,
    ← tickChip_noiseType p c, ← tickChip_debugReg p c]

/-! ### The reads -/

/-- Either read is REFRESH, and answers with its own Result (R95, R96). -/
theorem exec_read {i : Instr} (hi : i = .readDigital ∨ i = .readAnalog) (s : State) :
    exec i s = complete (refresh s.chip) (instrResult i s.chip) s := by
  obtain rfl | rfl := hi <;> rfl

/-- The Result does not depend on whether the cache is already fresh. -/
theorem instrResult_refresh (i : Instr) (c : Chip) : instrResult i (refresh c) = instrResult i c := by
  cases i <;> simp only [instrResult, refresh_refresh]

/-- A read writes the cache and nothing else, and the same read made again at once returns to the same state (R43). -/
theorem read_frame_and_repeat {i : Instr} (hi : i = .readDigital ∨ i = .readAnalog) (s : State) :
    ∃ t, exec i s = .next t ∧ t.chip = { s.chip with output := t.chip.output } ∧ exec i t = .next t := by
  refine ⟨_, exec_read hi s, rfl, ?_⟩
  rw [exec_read hi]
  simp only [complete, refresh_refresh, instrResult_refresh]

/-- Settles O49: WRITE and TICK by their frames, the reads by `read_frame_and_repeat`; SET_DEBUG and RESET are one record
update each. -/
theorem sideEffects : Obligations.SideEffects := fun s =>
  ⟨fun b => ⟨_, exec_decodeByte s.chip.latch b s, writeByte_frame params b s.chip⟩,
    ⟨_, rfl, tickChip_frame params s.chip⟩,
    fun _ hi => read_frame_and_repeat hi s,
    fun _ => ⟨_, rfl, rfl⟩,
    fun _ => ⟨_, _, rfl, rfl, rfl⟩⟩

end Sys2Proof.Machine
end

section
/-!
The written byte (30_encoding.md rules R51 to R58): the register a byte selects and the operand it carries, the record each of
the six forms leaves, and the calls that make a WRITE or a SET_DEBUG.
-/

namespace Sys2Proof.Machine

/-! ### The selected register

`latch` is a channel with a type bit: 1 selects the channel's volume, 0 its period or, on channel 3, the noise control (R17). -/

theorem latchIsVolume_iff : ∀ L : BitVec 3, latchIsVolume L = true ↔ L = 1 ∨ L = 3 ∨ L = 5 ∨ L = 7 := by decide

theorem latchSelectsTone_iff : ∀ L : BitVec 3,
    (latchIsVolume L = false ∧ latchChannel L ≠ 3) ↔ L = 0 ∨ L = 2 ∨ L = 4 := by decide

@[simp] theorem latchIsVolume_append : ∀ (ch : BitVec 2) (t : BitVec 1), latchIsVolume (ch ++ t) = t.getLsbD 0 := by decide

@[simp] theorem latchChannel_append : ∀ (ch : BitVec 2) (t : BitVec 1), latchChannel (ch ++ t) = channelOf ch := by decide

theorem channelOf_eq_three_iff : ∀ ch : BitVec 2, channelOf ch = 3 ↔ ch = 3 := by decide

/-! ### The fields of a byte of each form -/

@[simp] theorem isLatchByte_latchToneByte : ∀ ch n, isLatchByte (latchToneByte ch n) = true := by decide
@[simp] theorem latchField_latchToneByte : ∀ ch n, latchField (latchToneByte ch n) = ch ++ 0#1 := by decide
@[simp] theorem lowNibble_latchToneByte : ∀ ch n, lowNibble (latchToneByte ch n) = n := by decide

@[simp] theorem isLatchByte_latchNoiseByte : ∀ x n, isLatchByte (latchNoiseByte x n) = true := by decide
@[simp] theorem latchField_latchNoiseByte : ∀ x n, latchField (latchNoiseByte x n) = 6 := by decide
@[simp] theorem noiseField_latchNoiseByte : ∀ x n, noiseField (latchNoiseByte x n) = n := by decide

@[simp] theorem isLatchByte_latchVolByte : ∀ ch a, isLatchByte (latchVolByte ch a) = true := by decide
@[simp] theorem latchField_latchVolByte : ∀ ch a, latchField (latchVolByte ch a) = ch ++ 1#1 := by decide
@[simp] theorem lowNibble_latchVolByte : ∀ ch a, lowNibble (latchVolByte ch a) = a := by decide

@[simp] theorem isLatchByte_dataToneByte : ∀ x h, isLatchByte (dataToneByte x h) = false := by decide
@[simp] theorem lowSix_dataToneByte : ∀ x h, lowSix (dataToneByte x h) = h := by decide

@[simp] theorem isLatchByte_dataNoiseByte : ∀ x n, isLatchByte (dataNoiseByte x n) = false := by decide
@[simp] theorem noiseField_dataNoiseByte : ∀ x n, noiseField (dataNoiseByte x n) = n := by decide

@[simp] theorem isLatchByte_dataVolByte : ∀ x a, isLatchByte (dataVolByte x a) = false := by decide
@[simp] theorem lowNibble_dataVolByte : ∀ x a, lowNibble (dataVolByte x a) = a := by decide

/-! ### The decoder by the latch after the byte's own update (R53) -/

/-- A latch byte's form is read off its own latch field, so the latch before it does not matter. -/
theorem decodeByte_of_latchByte {b : Byte} (hb : isLatchByte b = true) (latch : BitVec 3) :
    decodeByte latch b =
      if latchIsVolume (latchField b) then .latchVol ((latchField b).extractLsb' 1 2) (lowNibble b)
      else if (latchField b).extractLsb' 1 2 = 3 then .latchNoise (b.extractLsb' 3 1) (noiseField b)
      else .latchTone ((latchField b).extractLsb' 1 2) (lowNibble b) := by
  have htype : ∀ b : Byte, latchIsVolume (latchField b) = b.getLsbD 4 := by decide
  have hch : ∀ b : Byte, (latchField b).extractLsb' 1 2 = b.extractLsb' 5 2 := by decide
  rw [htype, hch, decodeByte, if_pos hb]
  rfl

/-- A data byte's form is read off the latch alone. -/
theorem decodeByte_of_dataByte {b : Byte} (hb : isLatchByte b = false) (latch : BitVec 3) :
    decodeByte latch b =
      if latchIsVolume latch then .dataVol (b.extractLsb' 4 3) (lowNibble b)
      else if latch.extractLsb' 1 2 = 3 then .dataNoise (b.extractLsb' 3 4) (noiseField b)
      else .dataTone (b.extractLsb' 6 1) (lowSix b) := by
  rw [decodeByte, hb]
  rfl

/-- Settles O3: the two decoder equations, read at each value of the latch after the byte. -/
theorem writtenByteForms : Obligations.WrittenByteForms := by
  intro latch b
  dsimp only
  constructor
  · intro hb
    rw [if_pos hb]
    refine ⟨fun hL => ?_, fun hL => ?_, fun hL => ?_, fun latch' => ?_⟩
    · rw [decodeByte_of_latchByte hb, latchField]
      obtain hL | hL | hL := hL <;> rw [hL] <;> rfl
    · rw [decodeByte_of_latchByte hb, latchField, hL]
      rfl
    · rw [decodeByte_of_latchByte hb, latchField, if_pos ((latchIsVolume_iff _).mpr hL)]
      rfl
    · rw [decodeByte_of_latchByte hb, decodeByte_of_latchByte hb]
  · intro hb
    rw [if_neg (ne_true_of_eq_false hb)]
    refine ⟨fun hL => ?_, fun hL => ?_, fun hL => ?_⟩
    · rw [decodeByte_of_dataByte hb]
      obtain rfl | rfl | rfl := hL <;> rfl
    · rw [decodeByte_of_dataByte hb, hL]
      rfl
    · rw [decodeByte_of_dataByte hb, if_pos ((latchIsVolume_iff _).mpr hL)]
      rfl

/-! ### The calls -/

/-- A step at a WRITE call decodes the integer's low byte and runs it; the later calls stay. -/
theorem step_writeCall (n : Nat) (s : State) (rest : List CallSlot) :
    step { s with calls := [⟨1, n⟩] :: rest } =
      exec (decodeByte s.chip.latch (truncByte n)) { s with calls := rest } := rfl

/-- A step at a SET_DEBUG call runs it on the integer's low word; the later calls stay. -/
theorem step_setDebugCall (n : Nat) (s : State) (rest : List CallSlot) :
    step { s with calls := [⟨5, n⟩] :: rest } = exec (.setDebug (truncHalf n)) { s with calls := rest } := rfl

/-- Settles O7: both calls decode, and no instruction fails (`exec_completes`). -/
theorem everyByteAndWordIsLegal : Obligations.EveryByteAndWordIsLegal := by
  constructor
  · intro b s rest
    obtain ⟨t, ht, -, -⟩ := exec_completes (decodeByte s.chip.latch (truncByte b.toNat)) { s with calls := rest }
    exact ⟨t, (step_writeCall _ s rest).trans ht⟩
  · intro w s rest
    obtain ⟨t, ht, -, -⟩ := exec_completes (.setDebug (truncHalf w.toNat)) { s with calls := rest }
    exact ⟨t, (step_setDebugCall _ s rest).trans ht⟩

end Sys2Proof.Machine
end

section
/-!
The record a WRITE of each form leaves (40_register_interface.md rules R66 to R73), in which the bits a form ignores do not
occur, and which bits of a form matter (30_encoding.md rule R57).
-/

namespace Sys2Proof.Machine

/-! ### The six forms -/

theorem writeByte_latchToneByte (p : Config.Params) {ch : BitVec 2} (hch : ch ≠ 3) (n : BitVec 4) (c : Chip) :
    writeByte p (latchToneByte ch n) c = { c with
      latch := ch ++ 0#1
      freq := c.freq.set (channelOf ch) (periodWithLow c.freq[channelOf ch] n) } := by
  rw [writeByte, writeRegister_tone _ _ _ (by simp) (by simpa [channelOf_eq_three_iff] using hch)]
  simp [writePeriod, selectRegister]

theorem writeByte_latchVolByte (p : Config.Params) (ch : BitVec 2) (a : BitVec 4) (c : Chip) :
    writeByte p (latchVolByte ch a) c = { c with
      latch := ch ++ 1#1
      volume := c.volume.set (channelOf ch) a } := by
  rw [writeByte, writeRegister_volume _ _ _ (by simp)]
  simp [writeVolume, selectRegister]

/-- With this spec's parameters the noise control reads a byte's three low bits alone. -/
theorem noiseControl_params (b : Byte) (c : Chip) :
    noiseControl params b c = { c with
      noiseData := noiseField b
      noiseType := BitVec.ofBool ((noiseField b).getLsbD 1)
      noiseReset := c.noiseReset ||| 0b01
      freq := c.freq.set 3 (noisePeriod params (rateCode (noiseField b))) } := by
  have hbit : ∀ b : Byte, b.getLsbD 1 = (noiseField b).getLsbD 1 := by decide
  rw [← hbit]
  rfl

theorem writeByte_latchNoiseByte (x : BitVec 1) (n : BitVec 3) (c : Chip) :
    writeByte params (latchNoiseByte x n) c = { c with
      latch := 6
      noiseData := n
      noiseType := BitVec.ofBool (n.getLsbD 1)
      noiseReset := c.noiseReset ||| 0b01
      freq := c.freq.set 3 (noisePeriod params (rateCode n)) } := by
  have hL : (selectRegister (latchNoiseByte x n) c).latch = 6 := by simp
  rw [writeByte, writeRegister_noise _ _ _ (by rw [hL]; rfl) (by rw [hL]; rfl), noiseControl_params]
  simp [selectRegister]

theorem selectRegister_of_dataByte {b : Byte} (hb : isLatchByte b = false) (c : Chip) : selectRegister b c = c := by
  simp [selectRegister, hb]

theorem writeByte_dataToneByte (p : Config.Params) {c : Chip} (hv : latchIsVolume c.latch = false)
    (hch : latchChannel c.latch ≠ 3) (x : BitVec 1) (h : BitVec 6) :
    writeByte p (dataToneByte x h) c = { c with
      freq := c.freq.set (latchChannel c.latch) (periodWithHigh c.freq[latchChannel c.latch] h) } := by
  rw [writeByte, selectRegister_of_dataByte (by simp), writeRegister_tone _ _ _ hv hch]
  simp [writePeriod]

theorem writeByte_dataVolByte (p : Config.Params) {c : Chip} (hv : latchIsVolume c.latch = true) (x : BitVec 3)
    (a : BitVec 4) :
    writeByte p (dataVolByte x a) c = { c with volume := c.volume.set (latchChannel c.latch) a } := by
  rw [writeByte, selectRegister_of_dataByte (by simp), writeRegister_volume _ _ _ hv]
  simp [writeVolume]

theorem writeByte_dataNoiseByte {c : Chip} (hL : c.latch = 6) (x : BitVec 4) (n : BitVec 3) :
    writeByte params (dataNoiseByte x n) c = { c with
      noiseData := n
      noiseType := BitVec.ofBool (n.getLsbD 1)
      noiseReset := c.noiseReset ||| 0b01
      freq := c.freq.set 3 (noisePeriod params (rateCode n)) } := by
  rw [writeByte, selectRegister_of_dataByte (by simp), writeRegister_noise _ _ _ (by rw [hL]; rfl) (by rw [hL]; rfl),
    noiseControl_params]
  simp

/-! ### Which operand bits matter

In each form, two operands leave the same record exactly when they agree on the bits that occur in it. -/

/-- Transactions that end with the same Result differ exactly by their chip's record. -/
@[simp] theorem complete_inj (c c' : Chip) (r : Result) (s : State) : complete c r s = complete c' r s ↔ c = c' := by
  simp [complete]

/-- Two writes to one entry differ exactly by the value written. -/
@[simp] theorem vector_set_right_inj {α : Type} (v : Vector α 4) (i : Channel) (x y : α) : v.set i x = v.set i y ↔ x = y := by
  refine ⟨fun h => ?_, fun h => h ▸ rfl⟩
  simpa using congrArg (·[i]) h

@[simp] theorem periodWithLow_inj (old : Period) (n n' : BitVec 4) :
    periodWithLow old n = periodWithLow old n' ↔ n = n' := BitVec.append_right_inj _

@[simp] theorem periodWithHigh_inj (old : Period) (h h' : BitVec 6) :
    periodWithHigh old h = periodWithHigh old h' ↔ h = h' := BitVec.append_left_inj _

theorem exec_latchTone_eq_iff {ch ch' : BitVec 2} (hch : ch ≠ 3) (hch' : ch' ≠ 3) (n n' : BitVec 4) (s : State) :
    exec (.latchTone ch n) s = exec (.latchTone ch' n') s ↔ ch = ch' ∧ n = n' := by
  simp only [exec, execLatchTone, complete_inj, writeByte_latchToneByte _ hch, writeByte_latchToneByte _ hch',
    Chip.mk.injEq, true_and, and_true]
  refine (and_congr_left' (BitVec.append_left_inj _)).trans (and_congr_right ?_)
  rintro rfl
  rw [vector_set_right_inj, periodWithLow_inj]

theorem exec_latchVol_eq_iff (ch ch' : BitVec 2) (a a' : BitVec 4) (s : State) :
    exec (.latchVol ch a) s = exec (.latchVol ch' a') s ↔ ch = ch' ∧ a = a' := by
  simp only [exec, execLatchVol, complete_inj, writeByte_latchVolByte, Chip.mk.injEq, and_true]
  refine (and_congr_left' (BitVec.append_left_inj _)).trans (and_congr_right ?_)
  rintro rfl
  rw [vector_set_right_inj]

theorem exec_latchNoise_eq_iff (x x' : BitVec 1) (n n' : BitVec 3) (s : State) :
    exec (.latchNoise x n) s = exec (.latchNoise x' n') s ↔ n = n' := by
  simp only [exec, execLatchNoise, complete_inj, writeByte_latchNoiseByte]
  exact ⟨congrArg Chip.noiseData, fun h => h ▸ rfl⟩

theorem exec_dataTone_eq_iff {s : State} (hv : latchIsVolume s.chip.latch = false)
    (hch : latchChannel s.chip.latch ≠ 3) (x x' : BitVec 1) (h h' : BitVec 6) :
    exec (.dataTone x h) s = exec (.dataTone x' h') s ↔ h = h' := by
  simp only [exec, execDataTone, complete_inj, writeByte_dataToneByte _ hv hch, Chip.mk.injEq, true_and, and_true,
    vector_set_right_inj, periodWithHigh_inj]

theorem exec_dataVol_eq_iff {s : State} (hv : latchIsVolume s.chip.latch = true) (x x' : BitVec 3) (a a' : BitVec 4) :
    exec (.dataVol x a) s = exec (.dataVol x' a') s ↔ a = a' := by
  simp only [exec, execDataVol, complete_inj, writeByte_dataVolByte _ hv, Chip.mk.injEq, true_and, and_true,
    vector_set_right_inj]

theorem exec_dataNoise_eq_iff {s : State} (hL : s.chip.latch = 6) (x x' : BitVec 4) (n n' : BitVec 3) :
    exec (.dataNoise x n) s = exec (.dataNoise x' n') s ↔ n = n' := by
  simp only [exec, execDataNoise, complete_inj, writeByte_dataNoiseByte hL]
  exact ⟨congrArg Chip.noiseData, fun h => h ▸ rfl⟩

/-- Settles O8: one clause per form, and no byte is rejected because a WRITE completes. -/
theorem readAndIgnoredBits : Obligations.ReadAndIgnoredBits := by
  intro s
  refine ⟨fun ch ch' n n' hch hch' => exec_latchTone_eq_iff hch hch' n n' s, fun x x' c c' =>
    exec_latchNoise_eq_iff x x' c c' s, fun ch ch' a a' => exec_latchVol_eq_iff ch ch' a a' s, fun hL => ?_,
    exec_dataNoise_eq_iff, fun hL => ?_, fun b => ⟨_, exec_decodeByte s.chip.latch b s⟩⟩
  · obtain ⟨hv, hch⟩ := (latchSelectsTone_iff _).mpr hL
    exact exec_dataTone_eq_iff hv hch
  · exact exec_dataVol_eq_iff ((latchIsVolume_iff _).mpr hL)

end Sys2Proof.Machine
end

section
/-!
The two-byte write of a tone period (30_encoding.md rule R54).
-/

namespace Sys2Proof.Machine

/-- Each byte of the pair replaces its own part of the period, so that the two make the whole of it. -/
theorem periodWithHigh_periodWithLow (old P : Period) :
    periodWithHigh (periodWithLow old (P.extractLsb' 0 4)) (P.extractLsb' 4 6) = P := by
  have hlow : (periodWithLow old (P.extractLsb' 0 4)).extractLsb' 0 4 = P.extractLsb' 0 4 :=
    BitVec.extractLsb'_append_eq_right
  rw [periodWithHigh, hlow]
  exact (BitVec.extractLsb'_append_extractLsb'_eq_extractLsb' rfl).trans BitVec.extractLsb'_eq_self

/-- The integer `0x80 | ch<<5 | P[3:0]` is the LATCH_TONE byte of the period's low nibble. -/
theorem truncByte_latchTone_low (ch : BitVec 2) (P : Period) :
    truncByte (0x80 ||| ch.toNat <<< 5 ||| P.toNat % 16) = latchToneByte ch (P.extractLsb' 0 4) := by
  have hbyte : ∀ (ch : BitVec 2) (n : BitVec 4), truncByte (0x80 ||| ch.toNat <<< 5 ||| n.toNat) = latchToneByte ch n := by
    decide
  have hlow : P.toNat % 16 = (P.extractLsb' 0 4).toNat := by simp [BitVec.extractLsb'_toNat]
  rw [hlow, hbyte]

/-- The integer `P[9:4]` is the DATA_TONE byte of the period's upper six bits, with bit 6 clear. -/
theorem truncByte_dataTone_high (P : Period) : truncByte (P.toNat / 16) = dataToneByte 0 (P.extractLsb' 4 6) := by
  have hbyte : ∀ h : BitVec 6, truncByte h.toNat = dataToneByte 0 h := by decide
  have hhigh : P.toNat / 16 = (P.extractLsb' 4 6).toNat := by
    rw [BitVec.extractLsb'_toNat]
    omega
  rw [hhigh, hbyte]

/-- A WRITE call writes the integer's low byte, and the calls after it meet the chip it leaves (R47). -/
theorem runTxns_write (n : Nat) (ts : List RawTxn) (s : State) :
    runTxns (⟨1, n⟩ :: ts) s =
      runTxns ts { s with chip := writeByte params (truncByte n) s.chip, result := .nothing } := by
  have hdecode : decodeTxn s.chip.latch ⟨1, n⟩ = .ok (decodeByte s.chip.latch (truncByte n)) := rfl
  simp only [runTxns, hdecode, exec_decodeByte, complete]

/-- A data byte under the latch a LATCH_TONE byte leaves writes that channel's upper six bits. -/
theorem writeByte_dataToneByte_of_latch (p : Config.Params) {ch : BitVec 2} (hch : ch ≠ 3) {c : Chip}
    (hL : c.latch = ch ++ 0#1) (x : BitVec 1) (h : BitVec 6) :
    writeByte p (dataToneByte x h) c = { c with
      freq := c.freq.set (channelOf ch) (periodWithHigh c.freq[channelOf ch] h) } := by
  rw [writeByte_dataToneByte p (by simp [hL]) (by simpa [hL, channelOf_eq_three_iff] using hch)]
  simp [hL]

/-- The pair of bytes of a full period sets the whole period. -/
theorem writeByte_tonePair (p : Config.Params) {ch : BitVec 2} (hch : ch ≠ 3) (P : Period) (c : Chip) (x : BitVec 1) :
    writeByte p (dataToneByte x (P.extractLsb' 4 6)) (writeByte p (latchToneByte ch (P.extractLsb' 0 4)) c) =
      { c with latch := ch ++ 0#1, freq := c.freq.set (channelOf ch) P } := by
  rw [writeByte_latchToneByte p hch, writeByte_dataToneByte_of_latch p hch rfl]
  simp [periodWithHigh_periodWithLow]

/-- Settles O27: the record after a latch byte and after a data byte, and after one upon the other. -/
theorem twoBytePeriodWrite : Obligations.TwoBytePeriodWrite := by
  intro s ch P hch
  refine ⟨⟨_, exec_decodeByte _ _ s, ?_⟩, fun hL => ⟨_, exec_decodeByte _ _ s, ?_⟩, ?_⟩
  · change (writeByte params (latchToneByte ch (P.extractLsb' 0 4)) s.chip).freq[channelOf ch] = _
    simp [writeByte_latchToneByte params hch, periodWithLow]
  · have hbyte : ∀ h : BitVec 6, 0#2 ++ h = dataToneByte 0 h := by decide
    simp [hbyte, writeByte_dataToneByte_of_latch params hch hL, periodWithHigh]
  · rw [runTxns_write, runTxns_write, truncByte_latchTone_low, truncByte_dataTone_high, writeByte_tonePair params hch]
    rfl

end Sys2Proof.Machine
end

section
/-!
The whole WRITE (40_register_interface.md rules R64, R65, R69 and R75): the register a byte selects, the effect its updated
`latch` dispatches to, and the fields it leaves.
-/

namespace Sys2Proof.Machine

/-! ### What a WRITE leaves in each field -/

/-- Only the first of WRITE's two steps touches `latch` (R64). -/
@[simp] theorem writeByte_latch (p : Config.Params) (b : Byte) (c : Chip) :
    (writeByte p b c).latch = if isLatchByte b then latchField b else c.latch := by
  obtain h | h | h := writeByte_cases p b c
  · rw [h]; rfl
  · rw [h]; rfl
  · rw [h]; rfl

@[simp] theorem writeByte_output (p : Config.Params) (b : Byte) (c : Chip) : (writeByte p b c).output = c.output := by
  rw [writeByte_frame]
@[simp] theorem writeByte_counter (p : Config.Params) (b : Byte) (c : Chip) : (writeByte p b c).counter = c.counter := by
  rw [writeByte_frame]
@[simp] theorem writeByte_sign (p : Config.Params) (b : Byte) (c : Chip) : (writeByte p b c).sign = c.sign := by
  rw [writeByte_frame]
@[simp] theorem writeByte_inverse (p : Config.Params) (b : Byte) (c : Chip) : (writeByte p b c).inverse = c.inverse := by
  rw [writeByte_frame]
@[simp] theorem writeByte_cycle (p : Config.Params) (b : Byte) (c : Chip) : (writeByte p b c).cycle = c.cycle := by
  rw [writeByte_frame]
@[simp] theorem writeByte_noise (p : Config.Params) (b : Byte) (c : Chip) : (writeByte p b c).noise = c.noise := by
  rw [writeByte_frame]
@[simp] theorem writeByte_noiseUpdate (p : Config.Params) (b : Byte) (c : Chip) :
    (writeByte p b c).noiseUpdate = c.noiseUpdate := by
  rw [writeByte_frame]
@[simp] theorem writeByte_debugReg (p : Config.Params) (b : Byte) (c : Chip) : (writeByte p b c).debugReg = c.debugReg := by
  rw [writeByte_frame]

/-- Settles O16: the latch field of the WRITE that the decoded byte is. -/
theorem latchByteSelectsTheRegister : Obligations.LatchByteSelectsTheRegister := fun s b =>
  ⟨_, exec_decodeByte s.chip.latch b s, writeByte_latch params b s.chip⟩

/-- Settles O26: field by field, what WRITE leaves. -/
theorem writeFrame : Obligations.WriteFrame := fun s b =>
  ⟨_, exec_decodeByte s.chip.latch b s, writeByte_counter _ _ _, writeByte_sign _ _ _, writeByte_inverse _ _ _,
    writeByte_cycle _ _ _, writeByte_noise _ _ _, writeByte_noiseUpdate _ _ _, writeByte_output _ _ _,
    writeByte_debugReg _ _ _, rfl, rfl⟩

/-! ### The dispatch on the updated latch -/

theorem writePeriod_of_latchByte {b : Byte} (hb : isLatchByte b = true) (c : Chip) :
    writePeriod b c = { c with
      freq := c.freq.set (latchChannel c.latch) (periodWithLow c.freq[latchChannel c.latch] (lowNibble b)) } := by
  simp only [writePeriod, hb, if_true]

theorem writePeriod_of_dataByte {b : Byte} (hb : isLatchByte b = false) (c : Chip) :
    writePeriod b c = { c with
      freq := c.freq.set (latchChannel c.latch) (periodWithHigh c.freq[latchChannel c.latch] (lowSix b)) } := by
  simp only [writePeriod, hb, Bool.false_eq_true, if_false]

/-- Settles O17: the three kinds of register the updated latch can select, a tone period by either kind of byte; the frame
is WRITE's own. -/
theorem writeDispatchesOnTheUpdatedLatch : Obligations.WriteDispatchesOnTheUpdatedLatch := by
  intro s b L ch c f c'
  have hc' : c' = writeByte params b s.chip := by
    change _ = writeRegister params b c
    obtain hv | ⟨hv, hch⟩ | ⟨hv, hch⟩ := latch_cases L
    · rw [writeRegister_volume _ _ _ hv]
      exact if_pos hv
    · rw [writeRegister_noise _ _ _ hv hch]
      exact (if_neg (ne_true_of_eq_false hv)).trans (if_neg (not_not_intro hch))
    · rw [writeRegister_tone _ _ _ hv hch]
      refine (if_neg (ne_true_of_eq_false hv)).trans ((if_pos hch).trans ?_)
      cases hb : isLatchByte b with
      | true =>
        rw [writePeriod_of_latchByte hb]
        exact if_pos hb
      | false =>
        rw [writePeriod_of_dataByte hb]
        exact if_neg (ne_true_of_eq_false hb)
  rw [hc']
  exact ⟨exec_decodeByte s.chip.latch b s, writeByte_frame params b s.chip⟩

/-- A byte after which `latch` selects a channel's volume writes its low nibble there, whichever kind of byte it is. -/
theorem writeByte_of_updatedLatch_volume (p : Config.Params) {b : Byte} {c : Chip} {ch : BitVec 2}
    (hL : (selectRegister b c).latch = ch ++ 1#1) :
    (writeByte p b c).volume = c.volume.set (channelOf ch) (lowNibble b) := by
  have hv : latchIsVolume (selectRegister b c).latch = true := by rw [hL, latchIsVolume_append]; rfl
  rw [writeByte, writeRegister_volume _ _ _ hv]
  simp only [writeVolume_volume, hL, latchChannel_append, selectRegister_volume]

/-- Settles O18: the volumes after such a byte are the old ones with one entry set. -/
theorem volumeWritesAreUnconditional : Obligations.VolumeWritesAreUnconditional := by
  intro s b ch hL
  have hvol : (writeByte params b s.chip).volume = _ := writeByte_of_updatedLatch_volume params hL
  refine ⟨_, exec_decodeByte s.chip.latch b s, ?_, fun j hj => ?_⟩
  · simp only [hvol, Fin.getElem_fin, Vector.getElem_set_self]
    rfl
  · simp only [hvol, Fin.getElem_fin]
    exact Vector.getElem_set_ne _ _ fun h => hj (Fin.ext h.symm)

end Sys2Proof.Machine
end

section
/-!
The tone and volume bytes one by one (40_register_interface.md rules R66, R67, R72 and R73): the byte each is as a number, the
record it leaves, what the next tick or read makes of that record, and the rules' examples.
-/

namespace Sys2Proof.Machine

/-! ### The bytes as numbers -/

theorem latchToneByte_toNat : ∀ (ch : BitVec 2) (n : BitVec 4),
    (latchToneByte ch n).toNat = 0x80 + 32 * ch.toNat + n.toNat := by decide

theorem latchVolByte_toNat : ∀ (ch : BitVec 2) (a : BitVec 4),
    (latchVolByte ch a).toNat = 0x90 + 32 * ch.toNat + a.toNat := by decide

theorem dataToneByte_toNat : ∀ (x : BitVec 1) (h : BitVec 6), (dataToneByte x h).toNat = 64 * x.toNat + h.toNat := by decide

theorem dataVolByte_toNat : ∀ (x : BitVec 3) (a : BitVec 4), (dataVolByte x a).toNat = 16 * x.toNat + a.toNat := by decide

/-! ### The whole effect of each -/

theorem exec_latchTone {ch : BitVec 2} (hch : ch ≠ 3) (n : BitVec 4) (s : State) :
    exec (.latchTone ch n) s = complete { s.chip with
      latch := ch ++ 0#1
      freq := s.chip.freq.set (channelOf ch) (periodWithLow s.chip.freq[channelOf ch] n) } .nothing s :=
  congrArg (complete · .nothing s) (writeByte_latchToneByte params hch n s.chip)

theorem exec_latchVol (ch : BitVec 2) (a : BitVec 4) (s : State) :
    exec (.latchVol ch a) s = complete { s.chip with
      latch := ch ++ 1#1
      volume := s.chip.volume.set (channelOf ch) a } .nothing s :=
  congrArg (complete · .nothing s) (writeByte_latchVolByte params ch a s.chip)

theorem exec_dataTone {s : State} (hv : latchIsVolume s.chip.latch = false) (hch : latchChannel s.chip.latch ≠ 3)
    (x : BitVec 1) (h : BitVec 6) :
    exec (.dataTone x h) s = complete { s.chip with
      freq := s.chip.freq.set (latchChannel s.chip.latch)
        (periodWithHigh s.chip.freq[latchChannel s.chip.latch] h) } .nothing s :=
  congrArg (complete · .nothing s) (writeByte_dataToneByte params hv hch x h)

theorem exec_dataVol {s : State} (hv : latchIsVolume s.chip.latch = true) (x : BitVec 3) (a : BitVec 4) :
    exec (.dataVol x a) s = complete { s.chip with
      volume := s.chip.volume.set (latchChannel s.chip.latch) a } .nothing s :=
  congrArg (complete · .nothing s) (writeByte_dataVolByte params hv x a)

/-! ### What the next tick and the next read make of it -/

/-- A tick compares the counter of the channel it visits with that channel's period as it stands (R81). -/
theorem tickChip_counter_visited (p : Config.Params) (c : Chip) :
    (tickChip p c).counter[channelOf c.cycle] =
      if c.freq[channelOf c.cycle].toNat ≤ c.counter[channelOf c.cycle].toNat then 0
      else c.counter[channelOf c.cycle] + 1 := by
  simp only [tickChip_counter, Fin.getElem_fin, Vector.getElem_set_self, periodReached_iff]

/-- REFRESH gives a channel at attenuation 15 the level 15: either its volume shows or the gate silences it (R93). -/
theorem levelOf_of_volume_silent {c : Chip} {i : Channel} (h : c.volume[i] = 15) : levelOf c i = 15 := by
  rw [levelOf, h, ite_self, ite_self]

/-! ### The rules -/

/-- Settles O19: the byte, the record it leaves, the tick that visits the channel, and the example run. -/
theorem latchToneEffect : Obligations.LatchToneEffect := by
  refine ⟨fun ch n s hch => ⟨congrArg (RawTxn.mk 1) (latchToneByte_toNat ch n), exec_latchTone hch n s⟩,
    fun ch n s hch hcycle => ⟨_, _, exec_latchTone hch n s, rfl, ?_⟩,
    ⟨_, runTxns_write 0x8A [] State.reset, by decide, by decide⟩⟩
  subst hcycle
  exact tickChip_counter_visited params _

/-- Settles O20: the byte, the record it leaves under a latch that selects a tone period, and the example run. -/
theorem dataToneEffect : Obligations.DataToneEffect := by
  refine ⟨fun x h s hL => ?_, ⟨_, (runTxns_write 0x8A _ State.reset).trans (runTxns_write 0x05 [] _), by decide⟩⟩
  obtain ⟨hv, hch⟩ := (latchSelectsTone_iff _).mpr hL
  exact ⟨congrArg (RawTxn.mk 1) (dataToneByte_toNat x h), exec_dataTone hv hch x h⟩

/-- Settles O23: the byte, the record it leaves, the next read, and the example run.  The level of the silenced channel is 15
in test mode too, so the mode is not used. -/
theorem latchVolEffect : Obligations.LatchVolEffect := by
  refine ⟨fun ch a s => ⟨congrArg (RawTxn.mk 1) (latchVolByte_toNat ch a), exec_latchVol ch a s⟩,
    fun ch s _ => ⟨_, _, exec_latchVol ch 15 s, exec_read (.inl rfl) _, ?_⟩,
    ⟨_, runTxns_write 0x90 [] State.reset, by decide, by decide⟩⟩
  refine (refresh_output_get _ (channelOf ch)).trans (levelOf_of_volume_silent ?_)
  simp only [Fin.getElem_fin, Vector.getElem_set_self]

/-- Settles O24: the byte, the record it leaves under an odd latch, and the example run. -/
theorem dataVolEffect : Obligations.DataVolEffect :=
  ⟨fun x a _ hv => ⟨congrArg (RawTxn.mk 1) (dataVolByte_toNat x a), exec_dataVol hv x a⟩,
    ⟨_, _, runTxns_write 0xBF [] State.reset, by decide, by decide, runTxns_write 0x04 [] _, by decide⟩⟩

end Sys2Proof.Machine
end

section
/-!
What an instruction does to the chip's record: it is a WRITE, RESET, TICK, REFRESH or SET_DEBUG of it (30_encoding.md rule R50).
-/

namespace Sys2Proof.Machine

/-- An instruction ends with the record of the operation its transaction names, and with its Result. -/
theorem exec_cases (i : Instr) (s : State) :
    ∃ c, exec i s = complete c (instrResult i s.chip) s ∧
      (((encode i).tag = 1 ∧ ∃ b, c = writeByte params b s.chip) ∨
        (i = .reset ∧ c = Chip.resetWith params) ∨
        (i = .tick ∧ c = tickChip params s.chip) ∨
        ((i = .readDigital ∨ i = .readAnalog) ∧ c = refresh s.chip) ∨
        ∃ w, i = .setDebug w ∧ c = setDebugField w s.chip) := by
  cases i with
  | latchTone ch n => exact ⟨_, rfl, .inl ⟨rfl, _, rfl⟩⟩
  | latchNoise x c => exact ⟨_, rfl, .inl ⟨rfl, _, rfl⟩⟩
  | latchVol ch a => exact ⟨_, rfl, .inl ⟨rfl, _, rfl⟩⟩
  | dataTone x h => exact ⟨_, rfl, .inl ⟨rfl, _, rfl⟩⟩
  | dataNoise x c => exact ⟨_, rfl, .inl ⟨rfl, _, rfl⟩⟩
  | dataVol x a => exact ⟨_, rfl, .inl ⟨rfl, _, rfl⟩⟩
  | reset => exact ⟨_, rfl, .inr (.inl ⟨rfl, rfl⟩)⟩
  | tick => exact ⟨_, rfl, .inr (.inr (.inl ⟨rfl, rfl⟩))⟩
  | readDigital => exact ⟨_, rfl, .inr (.inr (.inr (.inl ⟨.inl rfl, rfl⟩)))⟩
  | readAnalog => exact ⟨_, rfl, .inr (.inr (.inr (.inl ⟨.inr rfl, rfl⟩)))⟩
  | setDebug w => exact ⟨_, rfl, .inr (.inr (.inr (.inr ⟨w, rfl, rfl⟩)))⟩

/-- The oscillators and the LFSR belong to TICK, and to RESET (R43, R92). -/
theorem exec_oscillators_frame {i : Instr} (htick : i ≠ .tick) (hreset : i ≠ .reset) (s : State) :
    ∃ t, exec i s = .next t ∧ t.chip.counter = s.chip.counter ∧ t.chip.sign = s.chip.sign ∧
      t.chip.inverse = s.chip.inverse ∧ t.chip.noise = s.chip.noise := by
  obtain ⟨c, hexec, hc⟩ := exec_cases i s
  refine ⟨_, hexec, ?_⟩
  obtain ⟨-, b, rfl⟩ | ⟨h, -⟩ | ⟨h, -⟩ | ⟨-, rfl⟩ | ⟨w, -, rfl⟩ := hc
  · exact ⟨writeByte_counter _ _ _, writeByte_sign _ _ _, writeByte_inverse _ _ _, writeByte_noise _ _ _⟩
  · exact absurd h hreset
  · exact absurd h htick
  · exact ⟨rfl, rfl, rfl, rfl⟩
  · exact ⟨rfl, rfl, rfl, rfl⟩

end Sys2Proof.Machine
end

section
/-!
TICK channel by channel (41_period_counter_and_noise.md rules R80, R81, R82 and R92): which counters and flips it touches, and
how its two position fields move.
-/

namespace Sys2Proof.Machine

/-! ### The period counters -/

theorem tickChip_counter_of_ne (p : Config.Params) {c : Chip} {j : Channel} (hj : j ≠ channelOf c.cycle) :
    (tickChip p c).counter[j] = c.counter[j] := by
  simp only [tickChip_counter, Fin.getElem_fin]
  exact Vector.getElem_set_ne _ _ fun h => hj (Fin.ext h.symm)

/-! ### The pending flips -/

/-- A channel's flip is pending after a tick if it was pending and no round boundary applied it, or if the tick visits the
channel at its period (R80, R81). -/
theorem flag_tickChip_inverse (p : Config.Params) (c : Chip) (j : Channel) :
    flag (tickChip p c).inverse j =
      (c.cycle != 0 && flag c.inverse j || (periodReached c && decide (channelOf c.cycle = j))) := by
  have hkept : flag (if c.cycle = 0 then 0 else c.inverse) j = (c.cycle != 0 && flag c.inverse j) := by
    split
    next h => rw [h]; exact flag_zero j
    next h => rw [bne_iff_ne.mpr h, Bool.true_and]
  rw [tickChip_inverse]
  cases periodReached c with
  | true => rw [if_pos rfl, flag_setFlag, hkept, Bool.true_and]
  | false => rw [if_neg Bool.false_ne_true, hkept, Bool.false_and, Bool.or_false]

theorem flag_tickChip_inverse_of_ne (p : Config.Params) {c : Chip} {j : Channel} (hj : j ≠ channelOf c.cycle) :
    flag (tickChip p c).inverse j = (c.cycle != 0 && flag c.inverse j) := by
  rw [flag_tickChip_inverse, decide_eq_false hj.symm, Bool.and_false, Bool.or_false]

/-- A round boundary leaves no flip pending but the one channel 0 requests in the same tick. -/
theorem tickChip_inverse_of_boundary (p : Config.Params) {c : Chip} (h : c.cycle = 0) :
    (tickChip p c).inverse = if c.freq[0].toNat ≤ c.counter[0].toNat then 0b0001 else 0b0000 := by
  have hreached : periodReached c = true ↔ c.freq[0].toNat ≤ c.counter[0].toNat := by
    simp only [periodReached_iff, h]
    rfl
  simp only [tickChip_inverse, hreached, h, if_true]
  rfl

/-! ### The position in the round and the reset-pending line -/

theorem tickChip_cycle_toNat (p : Config.Params) (c : Chip) : (tickChip p c).cycle.toNat = (c.cycle.toNat + 1) % 4 := by
  rw [tickChip_cycle]
  exact BitVec.toNat_add _ _

theorem tickChip_noiseReset_bits (p : Config.Params) (c : Chip) :
    (tickChip p c).noiseReset.getLsbD 1 = c.noiseReset.getLsbD 0 ∧ (tickChip p c).noiseReset.getLsbD 0 = false := by
  have hshift : ∀ line : BitVec 2, (line.extractLsb' 0 1 ++ 0#1).getLsbD 1 = line.getLsbD 0 ∧
      (line.extractLsb' 0 1 ++ 0#1).getLsbD 0 = false := by decide
  rw [tickChip_noiseReset]
  exact hshift _

/-! ### The rules -/

/-- Settles O31: `sign` and `inverse` after a tick at the boundary, and after one within the round. -/
theorem polarityResolution : Obligations.PolarityResolution := by
  intro s
  refine ⟨_, rfl, fun h => ⟨?_, tickChip_inverse_of_boundary params h⟩, fun h => ⟨?_, fun j hj => ?_⟩⟩
  · exact (tickChip_sign params s.chip).trans (if_pos h)
  · exact (tickChip_sign params s.chip).trans (if_neg h)
  · exact (flag_tickChip_inverse_of_ne params hj).trans (by rw [bne_iff_ne.mpr h, Bool.true_and])

/-- Settles O32: the visited channel's counter and flip by the two outcomes of the comparison, then the other channels. -/
theorem periodCounting : Obligations.PeriodCounting := by
  rintro s _ rfl
  have hcounter := tickChip_counter_visited params s.chip
  have hflag := flag_tickChip_inverse params s.chip (channelOf s.chip.cycle)
  refine ⟨_, rfl, fun hge => ⟨?_, ?_⟩, fun hlt => ⟨?_, ?_⟩, fun j hj =>
    ⟨tickChip_counter_of_ne params hj, flag_tickChip_inverse_of_ne params hj⟩⟩
  · exact hcounter.trans (if_pos hge)
  · exact hflag.trans (by simp [(periodReached_iff _).mpr hge])
  · exact hcounter.trans (if_neg (Nat.not_le.mpr hlt))
  · have hbelow : periodReached s.chip = false :=
      Bool.eq_false_iff.mpr fun h => Nat.not_le.mpr hlt ((periodReached_iff _).mp h)
    exact hflag.trans (by simp [hbelow])

/-- Settles O33: the successor modulo 4, and the shifted line bit by bit. -/
theorem tickAdvance : Obligations.TickAdvance := fun s =>
  ⟨_, rfl, tickChip_cycle_toNat params s.chip, tickChip_noiseReset_bits params s.chip⟩

/-- Settles O34: the oscillators' frame of the other instructions, and TICK's own frame field by field. -/
theorem tickFrame : Obligations.TickFrame := fun s =>
  ⟨fun _ htick hreset => exec_oscillators_frame htick hreset s,
    _, rfl, tickChip_latch _ _, tickChip_volume _ _, tickChip_freq _ _, tickChip_noiseData _ _, tickChip_noiseType _ _,
    tickChip_output _ _, tickChip_debugReg _ _, fun _ hj => tickChip_counter_of_ne params hj, rfl, rfl⟩

end Sys2Proof.Machine
end

section
/-!
The sample synthesizer (42_sample_synthesizer.md rules R93, R95 and R98): the levels REFRESH gives in either mode, the word
they pack into, the silent chip that ticks keep silent, and what SET_DEBUG stores.
-/

namespace Sys2Proof.Machine

/-! ### The cache after REFRESH -/

/-- In test mode a channel's level is its volume, whatever its gate (R93). -/
theorem refresh_output_of_testMode {c : Chip} (h : testMode c.debugReg = true) : (refresh c).output = c.volume :=
  Vector.ext fun i hi => (refresh_output_get c ⟨i, hi⟩).trans (if_pos h)

/-- In normal mode the channel's gate decides between its volume and silence (R93). -/
theorem levelOf_of_normalMode {c : Chip} (h : testMode c.debugReg = false) (i : Channel) :
    levelOf c i = if gate c i then c.volume[i] else 15 :=
  if_neg (Bool.eq_false_iff.mp h)

/-- The refreshed cache in normal mode: the polarities gate the tone channels, bit 14 of the LFSR the noise channel (R93). -/
theorem refresh_output_of_normalMode {c : Chip} (h : testMode c.debugReg = false) :
    (refresh c).output = #v[
      if c.sign.getLsbD 0 then c.volume[0] else 15,
      if c.sign.getLsbD 1 then c.volume[1] else 15,
      if c.sign.getLsbD 2 then c.volume[2] else 15,
      if c.noise.getLsbD 14 then c.volume[3] else 15] := by
  simp only [refresh, levelOf_of_normalMode h]
  rfl

/-- A chip whose every attenuation is 15 refreshes to silence, in both modes and at every gate. -/
theorem refresh_output_of_silent {c : Chip} (h : c.volume = Vector.replicate 4 15) :
    (refresh c).output = Vector.replicate 4 15 :=
  Vector.ext fun i hi => by
    have hlevel : levelOf c ⟨i, hi⟩ = 15 := levelOf_of_volume_silent (by simp [h])
    simpa [hlevel] using refresh_output_get c ⟨i, hi⟩

/-- The rule's example: channels 0 and 2 have polarity 1, channel 1 has 0, and bit 14 of the LFSR is set (R93, R95). -/
theorem refresh_output_example {c : Chip} (hsign : c.sign = 0b0101) (hnoise : c.noise = 0x4000)
    (hvolume : c.volume = #v[3, 4, 5, 6]) (hdebug : c.debugReg = 0) : (refresh c).output = #v[3, 15, 5, 6] := by
  rw [refresh_output_of_normalMode (by rw [hdebug]; rfl), hsign, hnoise, hvolume]
  rfl

/-! ### The packed word -/

/-- READ_DIGITAL answers with the packed levels of the refreshed cache (R95). -/
theorem exec_readDigital (s : State) :
    exec .readDigital s = complete (refresh s.chip) (.word (packSample (refresh s.chip).output)) s := rfl

/-- The packed word by shifts, compared bit by bit: each bit of the word lies in the nibble of one channel (R95). -/
theorem packSample_eq_or_shifts (v : Vector Level 4) :
    packSample v = v[0].setWidth 16 <<< 12 ||| v[1].setWidth 16 <<< 8 ||| v[2].setWidth 16 <<< 4 ||| v[3].setWidth 16 := by
  refine BitVec.eq_of_getLsbD_eq fun i hi => ?_
  simp only [packSample, BitVec.getLsbD_append, BitVec.getLsbD_or, BitVec.getLsbD_shiftLeft, BitVec.getLsbD_setWidth, hi]
  grind

/-- A silent chip reads as 0xFFFF (R95). -/
theorem exec_readDigital_of_silent {s : State} (h : s.chip.volume = Vector.replicate 4 15) :
    exec .readDigital s = complete (refresh s.chip) (.word 0xFFFF) s := by
  rw [exec_readDigital, refresh_output_of_silent h]
  rfl

/-! ### Ticks before a read -/

theorem tickTimes_volume (p : Config.Params) (n : Nat) (c : Chip) : (tickTimes p n c).volume = c.volume := by
  induction n generalizing c with
  | zero => rfl
  | succ n ih => exact (ih _).trans (tickChip_volume p c)

/-- `n` TICK calls tick the chip `n` times, and the calls after them meet the chip they leave (R47, R76). -/
theorem runTxns_ticks (n : Nat) (ts : List RawTxn) (c : Chip) (calls : List CallSlot) :
    runTxns (List.replicate n ⟨2, 0⟩ ++ ts) ⟨c, calls, .nothing⟩ =
      runTxns ts ⟨tickTimes params n c, calls, .nothing⟩ := by
  induction n generalizing c with
  | zero => rfl
  | succ n ih => exact ih (tickChip params c)

/-- A RESET call leaves the reset chip to the calls after it (R47, R115). -/
theorem runTxns_reset (ts : List RawTxn) (s : State) :
    runTxns (⟨0, 0⟩ :: ts) s = runTxns ts ⟨Chip.resetWith params, s.calls, .nothing⟩ := rfl

/-- A last READ_DIGITAL call is that instruction. -/
theorem runTxns_readDigital (s : State) : runTxns [⟨3, 0⟩] s = exec .readDigital s := rfl

/-- RESET and any number of ticks leave the chip silent, so the read after them answers 0xFFFF (R95). -/
theorem runTxns_reset_ticks_readDigital (n : Nat) (s : State) :
    ∃ t, runTxns (⟨0, 0⟩ :: (List.replicate n ⟨2, 0⟩ ++ [⟨3, 0⟩])) s = .next t ∧ t.result = .word 0xFFFF := by
  have hsilent : (tickTimes params n (Chip.resetWith params)).volume = Vector.replicate 4 15 := tickTimes_volume _ _ _
  rw [runTxns_reset, runTxns_ticks, runTxns_readDigital, exec_readDigital_of_silent hsilent]
  exact ⟨_, rfl, rfl⟩

/-! ### SET_DEBUG -/

/-- Bits 11 to 9 of the word, as a number (R98). -/
theorem debugField_eq_ofNat (w : Half) : debugField w = BitVec.ofNat 3 (w.toNat / 512) := by
  apply BitVec.eq_of_toNat_eq
  simp [debugField, BitVec.extractLsb'_toNat, Nat.shiftRight_eq_div_pow]

theorem exec_setDebug (w : Half) (s : State) :
    exec (.setDebug w) s = complete { s.chip with debugReg := debugField w } .nothing s := rfl

/-! ### The rules -/

/-- Settles O47: the field SET_DEBUG stores as a number, and the rule's word. -/
theorem setDebugEffect : Obligations.SetDebugEffect := by
  refine ⟨fun w s => ⟨rfl, ?_⟩, fun s => ⟨_, exec_setDebug 0x0A00 s, rfl⟩⟩
  rw [exec_setDebug, debugField_eq_ofNat]
  rfl

/-- Settles O44: either read is REFRESH, whose cache is known in test mode, in normal mode and in the example. -/
theorem refreshGates : Obligations.RefreshGates := by
  refine ⟨fun s i hi => ⟨_, exec_read hi s, refresh_output_of_testMode, fun h => ?_, rfl⟩,
    fun s hsign hnoise hvolume hdebug => ?_⟩
  · rw [refresh_output_of_normalMode h]
    exact ⟨rfl, rfl, rfl, rfl⟩
  · have houtput := refresh_output_example hsign hnoise hvolume hdebug
    exact ⟨_, exec_readDigital s, houtput, by rw [houtput]; rfl⟩

/-- Settles O45: the packed word in shifted form, the silent chip, the silent chip that ticks keep, the raw volumes of test
mode, and the example. -/
theorem readDigitalResult : Obligations.ReadDigitalResult := by
  refine ⟨rfl, fun s => ?_, fun s h => ⟨_, exec_readDigital_of_silent h, rfl⟩, runTxns_reset_ticks_readDigital,
    fun s h => ⟨_, exec_readDigital s, ?_⟩, fun s hsign hnoise hvolume hdebug => ⟨_, exec_readDigital s, ?_⟩⟩
  · rw [exec_readDigital, packSample_eq_or_shifts]
    rfl
  · rw [refresh_output_of_testMode h]
    rfl
  · rw [refresh_output_example hsign hnoise hvolume hdebug]
    rfl

end Sys2Proof.Machine
end

section
/-!
The decoder and the encoder are inverse to each other (30_encoding.md rules R50 to R53 and R60; 20_memory.md rule R42): a form's
byte decodes to its own operands, and what a call decodes to encodes to the call.
-/

namespace Sys2Proof.Machine

/-! ### Integers as wide as the port -/

@[simp] theorem truncByte_toNat (b : Byte) : truncByte b.toNat = b := by simp [truncByte]

@[simp] theorem truncHalf_toNat (w : Half) : truncHalf w.toNat = w := by simp [truncHalf]

theorem truncByte_mod (n : Nat) : truncByte (n % 256) = truncByte n := by
  apply BitVec.eq_of_toNat_eq
  simp [truncByte]

theorem truncHalf_mod (n : Nat) : truncHalf (n % 65536) = truncHalf n := by
  apply BitVec.eq_of_toNat_eq
  simp [truncHalf]

/-- A call with the WRITE tag decodes as the integer's low byte. -/
theorem decodeTxn_write (latch : BitVec 3) (n : Nat) :
    decodeTxn latch ⟨1, n⟩ = .ok (decodeByte latch (truncByte n)) := rfl

/-- A call with the SET_DEBUG tag decodes as the integer's low word. -/
theorem decodeTxn_setDebug (latch : BitVec 3) (n : Nat) :
    decodeTxn latch ⟨5, n⟩ = .ok (.setDebug (truncHalf n)) := rfl

/-! ### Each form's byte decodes to its own operands -/

theorem extractLsb'_channel_append : ∀ (ch : BitVec 2) (t : BitVec 1), (ch ++ t).extractLsb' 1 2 = ch := by decide

theorem decodeByte_latchToneByte (latch : BitVec 3) {ch : BitVec 2} (hch : ch ≠ 3) (n : BitVec 4) :
    decodeByte latch (latchToneByte ch n) = .latchTone ch n := by
  simpa [decodeByte_of_latchByte, extractLsb'_channel_append] using hch

theorem decodeByte_latchNoiseByte (latch : BitVec 3) (x : BitVec 1) (c : BitVec 3) :
    decodeByte latch (latchNoiseByte x c) = .latchNoise x c := by
  have hx : ∀ x c, (latchNoiseByte x c).extractLsb' 3 1 = x := by decide
  simp only [decodeByte_of_latchByte, isLatchByte_latchNoiseByte, latchField_latchNoiseByte, noiseField_latchNoiseByte, hx]
  rfl

theorem decodeByte_latchVolByte (latch : BitVec 3) (ch : BitVec 2) (a : BitVec 4) :
    decodeByte latch (latchVolByte ch a) = .latchVol ch a := by
  simp [decodeByte_of_latchByte, extractLsb'_channel_append]

theorem decodeByte_dataToneByte {latch : BitVec 3} (hv : latchIsVolume latch = false) (hch : latchChannel latch ≠ 3)
    (x : BitVec 1) (h : BitVec 6) : decodeByte latch (dataToneByte x h) = .dataTone x h := by
  have hx : ∀ x h, (dataToneByte x h).extractLsb' 6 1 = x := by decide
  have hch' : latch.extractLsb' 1 2 ≠ 3 := fun h => hch ((channelOf_eq_three_iff _).mpr h)
  simpa [decodeByte_of_dataByte, hx, hv] using hch'

theorem decodeByte_dataNoiseByte (x : BitVec 4) (c : BitVec 3) :
    decodeByte 6 (dataNoiseByte x c) = .dataNoise x c := by
  have hx : ∀ x c, (dataNoiseByte x c).extractLsb' 3 4 = x := by decide
  simp only [decodeByte_of_dataByte, isLatchByte_dataNoiseByte, noiseField_dataNoiseByte, hx]
  rfl

theorem decodeByte_dataVolByte {latch : BitVec 3} (hv : latchIsVolume latch = true) (x : BitVec 3) (a : BitVec 4) :
    decodeByte latch (dataVolByte x a) = .dataVol x a := by
  have hx : ∀ x a, (dataVolByte x a).extractLsb' 4 3 = x := by decide
  simp [decodeByte_of_dataByte, hx, hv]

/-- A call that carries a byte as its integer decodes as that byte. -/
theorem decodeTxn_byte (latch : BitVec 3) (b : Byte) : decodeTxn latch ⟨1, b.toNat⟩ = .ok (decodeByte latch b) := by
  rw [decodeTxn_write, truncByte_toNat]

/-- Settles O1: each written form by its byte, the others by their tag. -/
theorem decodeEncodeRoundTrip : Obligations.DecodeEncodeRoundTrip := by
  intro latch i hwf hfits
  cases i with
  | latchTone ch n =>
    have hch : ch ≠ 3 := by simpa [Instr.wellFormed] using hwf
    rw [encode, decodeTxn_byte, decodeByte_latchToneByte latch hch]
  | latchNoise x c => rw [encode, decodeTxn_byte, decodeByte_latchNoiseByte]
  | latchVol ch a => rw [encode, decodeTxn_byte, decodeByte_latchVolByte]
  | dataTone x h =>
    obtain ⟨hv, hch⟩ := (latchSelectsTone_iff latch).mpr (by simpa [Instr.fitsLatch, or_assoc] using hfits)
    rw [encode, decodeTxn_byte, decodeByte_dataToneByte hv hch]
  | dataNoise x c =>
    obtain rfl : latch = 6 := by simpa [Instr.fitsLatch] using hfits
    rw [encode, decodeTxn_byte, decodeByte_dataNoiseByte]
  | dataVol x a =>
    have hv : latchIsVolume latch = true :=
      (latchIsVolume_iff latch).mpr (by simpa [Instr.fitsLatch, or_assoc] using hfits)
    rw [encode, decodeTxn_byte, decodeByte_dataVolByte hv]
  | reset => rfl
  | tick => rfl
  | readDigital => rfl
  | readAnalog => rfl
  | setDebug w => rw [encode, decodeTxn_setDebug, truncHalf_toNat]

/-! ### What a call decodes to encodes to the call -/

theorem encode_decodeByte (latch : BitVec 3) (b : Byte) : encode (decodeByte latch b) = ⟨1, b.toNat⟩ := by
  unfold decodeByte
  split
  next hlatch =>
    split
    next h4 => rw [encode, latchVolByte_fields b hlatch h4]
    next h4 =>
      have h4 : b.getLsbD 4 = false := by simpa using h4
      split
      next h3 => rw [encode, latchNoiseByte_fields b hlatch h4 h3]
      next => rw [encode, latchToneByte_fields b hlatch h4]
  next hdata =>
    have hdata : isLatchByte b = false := by simpa using hdata
    split
    next => rw [encode, dataVolByte_fields b hdata]
    next =>
      split
      next => rw [encode, dataNoiseByte_fields b hdata]
      next => rw [encode, dataToneByte_fields b hdata]

/-- The decoder of a byte answers a row of the table that fits the latch it decodes by (R53). -/
theorem decodeByte_wellFormed_and_fits (latch : BitVec 3) (b : Byte) :
    (decodeByte latch b).wellFormed = true ∧ (decodeByte latch b).fitsLatch latch = true := by
  cases hb : isLatchByte b with
  | true =>
    rw [decodeByte_of_latchByte hb]
    split
    · exact ⟨rfl, rfl⟩
    · split
      · exact ⟨rfl, rfl⟩
      next hch => exact ⟨bne_iff_ne.mpr hch, rfl⟩
  | false =>
    rw [decodeByte_of_dataByte hb]
    split
    next hv => exact ⟨rfl, by simpa [Instr.fitsLatch, or_assoc] using (latchIsVolume_iff latch).mp hv⟩
    next hv =>
      have hv : latchIsVolume latch = false := by simpa using hv
      split
      next hch =>
        have hsix : ∀ L : BitVec 3, latchIsVolume L = false → L.extractLsb' 1 2 = 3 → L = 6 := by decide
        exact ⟨rfl, beq_iff_eq.mpr (hsix latch hv hch)⟩
      next hch =>
        have htone := (latchSelectsTone_iff latch).mp ⟨hv, fun h => hch ((channelOf_eq_three_iff _).mp h)⟩
        exact ⟨rfl, by simpa [Instr.fitsLatch, or_assoc] using htone⟩

/-- What a call can decode to: the transaction of its tag, with the operand that the tag's transaction reads (R50). -/
theorem decodeTxn_eq_ok {latch : BitVec 3} {t : RawTxn} {i : Instr} (h : decodeTxn latch t = .ok i) :
    (t.tag = 0 ∧ i = .reset) ∨ (t.tag = 1 ∧ i = decodeByte latch (truncByte t.operand)) ∨ (t.tag = 2 ∧ i = .tick) ∨
      (t.tag = 3 ∧ i = .readDigital) ∨ (t.tag = 4 ∧ i = .readAnalog) ∨
      (t.tag = 5 ∧ i = .setDebug (truncHalf t.operand)) := by
  unfold decodeTxn at h
  split_ifs at h with h0 h1 h2 h3 h4 h5
  · exact .inl ⟨h0, (Except.ok.inj h).symm⟩
  · exact .inr (.inl ⟨h1, (Except.ok.inj h).symm⟩)
  · exact .inr (.inr (.inl ⟨h2, (Except.ok.inj h).symm⟩))
  · exact .inr (.inr (.inr (.inl ⟨h3, (Except.ok.inj h).symm⟩)))
  · exact .inr (.inr (.inr (.inr (.inl ⟨h4, (Except.ok.inj h).symm⟩))))
  · exact .inr (.inr (.inr (.inr (.inr ⟨h5, (Except.ok.inj h).symm⟩))))

/-- Settles O2: the tag's transaction is known, and only a WRITE's row and its byte need the decoder of bytes. -/
theorem encodeDecodeRoundTrip : Obligations.EncodeDecodeRoundTrip := by
  intro latch t i h
  obtain ⟨htag, rfl⟩ | ⟨htag, rfl⟩ | ⟨htag, rfl⟩ | ⟨htag, rfl⟩ | ⟨htag, rfl⟩ | ⟨htag, rfl⟩ := decodeTxn_eq_ok h
  case inr.inl =>
    obtain ⟨hwf, hfits⟩ := decodeByte_wellFormed_and_fits latch (truncByte t.operand)
    refine ⟨hwf, hfits, ?_⟩
    rw [encode_decodeByte, htag]
    rfl
  all_goals
    refine ⟨rfl, rfl, ?_⟩
    rw [htag]
    rfl

/-! ### The tags and the cut of wider integers -/

/-- Settles O4: the decoder run on eleven closed words. -/
theorem wordsOfTheTableDecode : Obligations.WordsOfTheTableDecode := by
  unfold Obligations.WordsOfTheTableDecode
  decide

/-- Settles O5: the decoder at each tag. -/
theorem tagsNameTheTransactions : Obligations.TagsNameTheTransactions := fun latch n _ _ =>
  ⟨rfl, decodeTxn_write latch n, rfl, rfl, rfl, decodeTxn_setDebug latch n, rfl, rfl⟩

/-- Settles O6: a step sees a call's integer only through its cut. -/
theorem widerIntegersAreTruncated : Obligations.WiderIntegersAreTruncated := by
  intro n s rest
  constructor
  · rw [step_writeCall, step_writeCall, truncByte_mod]
  · rw [step_setDebugCall, step_setDebugCall, truncHalf_mod]

end Sys2Proof.Machine
end

section
/-!
The step and the host (20_memory.md rule R47, 60_exceptions.md rules R113 and R114): what a step does at each kind of
slot, when it stops, and a run of serialized calls.
-/

namespace Sys2Proof.Machine

/-! ### A step at each kind of slot -/

theorem step_idle (s : State) : step { s with calls := [] } = .next { s with calls := [] } := rfl

theorem step_emptySlot (s : State) (rest : List CallSlot) :
    step { s with calls := [] :: rest } = .next { s with calls := rest } := rfl

theorem step_call {s : State} {t : RawTxn} {i : Instr} (h : decodeTxn s.chip.latch t = .ok i) (rest : List CallSlot) :
    step { s with calls := [t] :: rest } = exec i { s with calls := rest } := by
  rw [step, fetch_call _ _ _ _ i h]

theorem step_badTag {s : State} {t : RawTxn} {g : BitVec 3} (h : decodeTxn s.chip.latch t = .error (.badTag g))
    (rest : List CallSlot) : step { s with calls := [t] :: rest } = .refused (.badTag g) := by
  rw [step, fetch_badTag _ _ _ _ g h]

theorem step_concurrent (s : State) (t u : RawTxn) (more : CallSlot) (rest : List CallSlot) :
    step { s with calls := (t :: u :: more) :: rest } = .refused .concurrentCalls := rfl

/-- Settles O9: `step_call`. -/
theorem stepRunsTheDecodedTransaction : Obligations.StepRunsTheDecodedTransaction := fun _ _ rest _ h =>
  step_call h rest

/-- Settles O10: the two idle slots. -/
theorem idleLeavesTheStateUnchanged : Obligations.IdleLeavesTheStateUnchanged := fun s rest =>
  ⟨step_idle s, step_emptySlot s rest⟩

/-- Settles O11: `step_concurrent`. -/
theorem concurrentCallsAreRefused : Obligations.ConcurrentCallsAreRefused := step_concurrent

theorem tagExists_eq_false_iff (t : RawTxn) : tagExists t = false ↔ t.tag = 6 ∨ t.tag = 7 := by
  have htag : ∀ g : BitVec 3, (g != 6 && g != 7) = false ↔ g = 6 ∨ g = 7 := by decide
  exact htag t.tag

/-- Settles O12: by the host's next slot, and for a slot of one call by whether its tag exists. -/
theorem onlyBadTagsAndConcurrencyStop : Obligations.OnlyBadTagsAndConcurrencyStop := by
  rintro ⟨c, calls, r⟩
  match calls with
  | [] => exact .inl ⟨_, step_idle ⟨c, [], r⟩⟩
  | [] :: rest => exact .inl ⟨_, step_emptySlot ⟨c, [], r⟩ rest⟩
  | [t] :: rest =>
    obtain ⟨-, i, hi⟩ | ⟨htag, hbad⟩ := decodeTxn_cases c.latch t
    · obtain ⟨u, hu, -, -⟩ := exec_completes i ⟨c, rest, r⟩
      exact .inl ⟨u, (step_call (s := ⟨c, [], r⟩) hi rest).trans hu⟩
    · exact .inr (.inl ⟨t, rest, rfl, (tagExists_eq_false_iff t).mp htag, step_badTag (s := ⟨c, [], r⟩) hbad rest⟩)
  | (t :: u :: more) :: rest => exact .inr (.inr ⟨t, u, more, rest, rfl, step_concurrent ⟨c, [], r⟩ t u more rest⟩)

/-! ### Runs of serialized calls -/

/-- The host's later slots are as safe as all of them. -/
theorem SafeCalls.tail {c : Chip} {slot : CallSlot} {rest : List CallSlot} {r : Result}
    (h : SafeCalls ⟨c, slot :: rest, r⟩) (t : State) (ht : t.calls = rest) : SafeCalls t :=
  fun slot' hslot' => h slot' (List.mem_cons_of_mem _ (ht ▸ hslot'))

/-- A step of a host that serializes its calls and uses existing tags completes, and leaves such a host. -/
theorem step_of_safeCalls {s : State} (h : SafeCalls s) : ∃ t, step s = .next t ∧ SafeCalls t := by
  obtain ⟨c, calls, r⟩ := s
  match calls, h with
  | [], h => exact ⟨_, step_idle ⟨c, [], r⟩, h⟩
  | [] :: rest, h => exact ⟨_, step_emptySlot ⟨c, [], r⟩ rest, h.tail _ rfl⟩
  | [t] :: rest, h =>
    obtain ⟨-, htags⟩ := h [t] List.mem_cons_self
    have htag : tagExists t = true := htags t List.mem_cons_self
    obtain ⟨-, i, hi⟩ | ⟨hno, -⟩ := decodeTxn_cases c.latch t
    · obtain ⟨u, hu, hcalls, -⟩ := exec_completes i ⟨c, rest, r⟩
      exact ⟨u, (step_call (s := ⟨c, [], r⟩) hi rest).trans hu, h.tail u hcalls⟩
    · exact absurd htag (ne_true_of_eq_false hno)
  | (t :: u :: more) :: rest, h =>
    obtain ⟨hlen, -⟩ := h (t :: u :: more) List.mem_cons_self
    simp at hlen

theorem core_run_succ_of_next {s t : State} (h : step s = .next t) (n : Nat) : core.run (n + 1) s = core.run n t := by
  change core.step s = .next t at h
  simp only [Host.Core.run, h]

theorem core_run_succ_of_refused {s : State} {r : Refusal} (h : step s = .refused r) (n : Nat) :
    core.run (n + 1) s = .refused r := by
  change core.step s = .refused r at h
  simp only [Host.Core.run, h]

/-- Settles O13, by induction on the number of steps. -/
theorem serializedHostNeverStops : Obligations.SerializedHostNeverStops := by
  intro n
  induction n with
  | zero => exact fun s h => ⟨s, rfl, h⟩
  | succ n ih =>
    intro s h
    obtain ⟨t, hstep, ht⟩ := step_of_safeCalls h
    obtain ⟨u, hrun, hu⟩ := ih t ht
    exact ⟨u, (core_run_succ_of_next hstep n).trans hrun, hu⟩

theorem runTxns_cons_of_exec {s u : State} {t : RawTxn} {i : Instr} (hi : decodeTxn s.chip.latch t = .ok i)
    (hu : exec i s = .next u) (ts : List RawTxn) : runTxns (t :: ts) s = runTxns ts u := by
  simp only [runTxns, hi, hu]

theorem runTxns_cons_of_badTag {s : State} {t : RawTxn} {g : BitVec 3}
    (h : decodeTxn s.chip.latch t = .error (.badTag g)) (ts : List RawTxn) :
    runTxns (t :: ts) s = .refused (.badTag g) := by
  simp only [runTxns, h]

/-- An instruction neither reads nor changes the host's later calls. -/
theorem exec_setCalls {i : Instr} {s u : State} {calls : List CallSlot} (h : exec i { s with calls := calls } = .next u)
    (calls' : List CallSlot) : exec i { s with calls := calls' } = .next { u with calls := calls' } := by
  obtain ⟨f, g, hexec⟩ := exec_eq_complete i
  rw [hexec, complete_eq_next_iff] at *
  rw [h]

/-- Settles O15, by induction on the calls: the first call either stops both sides alike, or leaves both the same chip. -/
theorem callsComposeLeftToRight : Obligations.CallsComposeLeftToRight := by
  intro ts
  induction ts with
  | nil => exact fun s rest => rfl
  | cons t ts ih =>
    intro s rest
    obtain ⟨-, i, hi⟩ | ⟨-, hbad⟩ := decodeTxn_cases s.chip.latch t
    · obtain ⟨u, hu, hcalls, -⟩ := exec_completes i { s with calls := rest }
      have hkept : { u with calls := rest } = u := (congrArg (State.mk u.chip · u.result) hcalls).symm
      have hstep := (step_call hi (oneAtATime ts ++ rest)).trans (exec_setCalls hu _)
      refine (core_run_succ_of_next hstep ts.length).trans ((ih u rest).trans ?_)
      rw [hkept]
      exact (runTxns_cons_of_exec (s := { s with calls := rest }) hi hu ts).symm
    · exact (core_run_succ_of_refused (step_badTag hbad _) _).trans
        (runTxns_cons_of_badTag (s := { s with calls := rest }) hbad ts).symm

end Sys2Proof.Machine
end

section
/-!
The invariant of the machine (10_state.md section 2): it holds at reset and every transaction keeps it, so every step does; and
what it says of the noise channel's period.
-/

namespace Sys2Proof.Machine

/-! ### Each part of the invariant reads few fields -/

theorem noiseConsistent_congr {p : Config.Params} {c c' : Chip} (hfreq : c'.freq[3] = c.freq[3])
    (hdata : c'.noiseData = c.noiseData) (htype : c'.noiseType = c.noiseType) (h : noiseConsistent p c) :
    noiseConsistent p c' := by
  rw [noiseConsistent, hfreq, hdata, htype]
  exact h

theorem flipsOfRound_congr {c c' : Chip} (hcycle : c'.cycle = c.cycle) (hinverse : c'.inverse = c.inverse)
    (h : flipsOfRound c) : flipsOfRound c' := by
  rw [flipsOfRound, hcycle, hinverse]
  exact h

/-! ### Each operation keeps it -/

theorem resetWith_inv (p : Config.Params) : (Chip.resetWith p).Inv p :=
  ⟨⟨rfl, by simp⟩, fun h => absurd rfl h⟩

/-- The noise control stores the configuration, the period and the tap mode from one byte; the tap bit must be among the three
stored bits. -/
theorem noiseControl_consistent {p : Config.Params} (hp : p.noiseFbBit < 3) (b : Byte) (c : Chip) :
    noiseConsistent p (noiseControl p b c) := by
  have hbit : (noiseField b).getLsbD p.noiseFbBit = b.getLsbD p.noiseFbBit := by
    simp [noiseField, hp]
  exact ⟨by simp, by simp [hbit]⟩

/-- A WRITE sets the whole noise configuration, or leaves it. -/
theorem writeByte_consistent {p : Config.Params} (hp : p.noiseFbBit < 3) (b : Byte) {c : Chip}
    (h : noiseConsistent p c) : noiseConsistent p (writeByte p b c) := by
  rw [writeByte]
  obtain hv | ⟨hv, hch⟩ | ⟨hv, hch⟩ := latch_cases (selectRegister b c).latch
  · rw [writeRegister_volume _ _ _ hv]
    exact noiseConsistent_congr rfl rfl rfl h
  · rw [writeRegister_noise _ _ _ hv hch]
    exact noiseControl_consistent hp b _
  · rw [writeRegister_tone _ _ _ hv hch]
    refine noiseConsistent_congr (c := c) ?_ rfl rfl h
    rw [writePeriod_freq]
    exact Vector.getElem_set_ne _ _ fun h3 => hch (Fin.ext h3)

theorem writeByte_inv {p : Config.Params} (hp : p.noiseFbBit < 3) (b : Byte) {c : Chip} (h : c.Inv p) :
    (writeByte p b c).Inv p := by
  obtain ⟨hnoise, hflips⟩ := h
  exact ⟨writeByte_consistent hp b hnoise, flipsOfRound_congr (writeByte_cycle p b c) (writeByte_inverse p b c) hflips⟩

/-- The one flip a tick can request is the visited channel's, which the next position has passed. -/
theorem tickChip_flipsOfRound (p : Config.Params) {c : Chip} (h : flipsOfRound c) : flipsOfRound (tickChip p c) := by
  intro hcycle i hi
  have hpassed : ∀ (y : BitVec 2) (i : Channel), y + 1 ≠ 0 → (y + 1).toNat ≤ i.val →
      y.toNat ≤ i.val ∧ i ≠ channelOf y := by decide
  rw [tickChip_cycle] at hcycle hi
  obtain ⟨hlate, hne⟩ := hpassed c.cycle i hcycle hi
  rw [flag_tickChip_inverse_of_ne p hne, Bool.and_eq_false_imp]
  exact fun hy => h (bne_iff_ne.mp hy) i hlate

theorem tickChip_inv (p : Config.Params) {c : Chip} (h : c.Inv p) : (tickChip p c).Inv p := by
  obtain ⟨hnoise, hflips⟩ := h
  refine ⟨noiseConsistent_congr ?_ (tickChip_noiseData p c) (tickChip_noiseType p c) hnoise, tickChip_flipsOfRound p hflips⟩
  rw [tickChip_freq]

/-- Every instruction keeps the invariant (10_state.md section 2). -/
theorem exec_inv {i : Instr} {s t : State} (h : s.Inv) (hexec : exec i s = .next t) : t.Inv := by
  obtain ⟨c, hc, hcases⟩ := exec_cases i s
  rw [hc, complete_eq_next_iff] at hexec
  rw [hexec]
  obtain ⟨-, b, rfl⟩ | ⟨-, rfl⟩ | ⟨-, rfl⟩ | ⟨-, rfl⟩ | ⟨w, -, rfl⟩ := hcases
  · exact writeByte_inv (by decide) b h
  · exact resetWith_inv params
  · exact tickChip_inv params h
  · exact h
  · exact h

/-! ### Every step keeps it -/

/-- A step that completes leaves the chip, or executes one instruction on a state with the same chip. -/
theorem step_eq_next {s t : State} (h : step s = .next t) :
    t.chip = s.chip ∨ ∃ i s', s'.chip = s.chip ∧ exec i s' = .next t := by
  obtain ⟨c, calls, r⟩ := s
  match calls with
  | [] => exact .inl (by rw [← Host.Outcome.next.inj h])
  | [] :: rest => exact .inl (by rw [← Host.Outcome.next.inj h])
  | [u] :: rest =>
    obtain ⟨-, i, hi⟩ | ⟨-, hbad⟩ := decodeTxn_cases c.latch u
    · exact .inr ⟨i, ⟨c, rest, r⟩, rfl, (step_call (s := ⟨c, [], r⟩) hi rest).symm.trans h⟩
    · cases (step_badTag (s := ⟨c, [], r⟩) hbad rest).symm.trans h
  | (u :: v :: more) :: rest => cases h

/-- Settles O58: an idle step leaves the chip, and an instruction keeps the invariant. -/
theorem everyStepKeepsTheFieldRelations : Obligations.EveryStepKeepsTheFieldRelations := by
  intro s t h hstep
  obtain hchip | ⟨i, s', hchip, hexec⟩ := step_eq_next hstep
  · rw [State.Inv, hchip]
    exact h
  · refine exec_inv ?_ hexec
    rw [State.Inv, hchip]
    exact h

/-- Settles O59: RESET's chip has the invariant under every parameter record. -/
theorem resetHasTheFieldRelations : Obligations.ResetHasTheFieldRelations := resetWith_inv params

/-! ### The noise channel's period -/

/-- The four rate codes' periods at the base period 0x010 (R55, R68). -/
theorem noisePeriod_params : ∀ code : BitVec 2, noisePeriod params code =
    if code = 0 then 0x010 else if code = 1 then 0x020 else if code = 2 then 0x040 else 0 := by decide

/-- Settles O60: the invariant makes the period that of the rate code, and the four codes have four periods. -/
theorem zeroNoisePeriodMeansRateCodeThree : Obligations.ZeroNoisePeriodMeansRateCodeThree := by
  rintro s ⟨⟨hfreq, -⟩, -⟩
  have hcodes : ∀ code : BitVec 2, (noisePeriod params code = 0 ↔ code = 3) ∧
      (noisePeriod params code = 0x010 ∨ noisePeriod params code = 0x020 ∨ noisePeriod params code = 0x040 ∨
        noisePeriod params code = 0) := by decide
  rw [hfreq]
  exact hcodes _

end Sys2Proof.Machine
end

section
/-!
The noise bytes, the data mnemonics and the orders of a tone period's two bytes (40_register_interface.md rules R68, R70, R71 and
R74; 30_encoding.md rules R54 and R63).
-/

namespace Sys2Proof.Machine

/-! ### The noise bytes -/

theorem latchNoiseByte_toNat : ∀ (x : BitVec 1) (c : BitVec 3),
    (latchNoiseByte x c).toNat = 0xE0 + 8 * x.toNat + c.toNat := by decide

theorem dataNoiseByte_toNat : ∀ (x : BitVec 4) (c : BitVec 3), (dataNoiseByte x c).toNat = 8 * x.toNat + c.toNat := by
  decide

/-- The record after a noise configuration `n` is written, at the spec's parameter values (R68). -/
def noiseConfigured (n : BitVec 3) (c : Chip) : Chip :=
  { c with
    noiseData := n
    noiseType := n.extractLsb' 1 1
    noiseReset := c.noiseReset.extractLsb' 1 1 ++ 1#1
    freq := c.freq.set 3
      (if n.extractLsb' 0 2 = 0 then 0x010 else if n.extractLsb' 0 2 = 1 then 0x020
       else if n.extractLsb' 0 2 = 2 then 0x040 else 0) }

theorem noiseControl_eq_noiseConfigured (b : Byte) (c : Chip) :
    noiseControl params b c = noiseConfigured (noiseField b) c := by
  have htype : ∀ n : BitVec 3, BitVec.ofBool (n.getLsbD 1) = n.extractLsb' 1 1 := by decide
  have hline : ∀ line : BitVec 2, line ||| 0b01 = line.extractLsb' 1 1 ++ 1#1 := by decide
  rw [noiseControl_params, htype, hline, noisePeriod_params]
  rfl

/-- A byte after which `latch` selects the noise control configures the noise, whichever kind of byte it is. -/
theorem writeByte_of_updatedLatch_noise {b : Byte} {c : Chip} (hL : (selectRegister b c).latch = 6) :
    writeByte params b c = noiseConfigured (noiseField b) { c with latch := 6 } := by
  have hc : selectRegister b c = { c with latch := 6 } := by rw [← hL]; rfl
  rw [writeByte, writeRegister_noise _ _ _ (by rw [hL]; rfl) (by rw [hL]; rfl), hc, noiseControl_eq_noiseConfigured]

/-- Settles O21: the byte as a number, and the configuration under the latch it selects. -/
theorem latchNoiseEffect : Obligations.LatchNoiseEffect := by
  intro x c s
  refine ⟨congrArg (RawTxn.mk 1) (latchNoiseByte_toNat x c), congrArg (complete · .nothing s) ?_⟩
  rw [writeByte_of_updatedLatch_noise (by simp), noiseField_latchNoiseByte]
  rfl

/-- Settles O22: the byte as a number, and the configuration under the latch it keeps. -/
theorem dataNoiseEffect : Obligations.DataNoiseEffect := by
  intro x c s hL
  refine ⟨congrArg (RawTxn.mk 1) (dataNoiseByte_toNat x c), congrArg (complete · .nothing s) ?_⟩
  rw [writeByte_of_updatedLatch_noise (by simpa using hL), noiseField_dataNoiseByte, ← hL]
  rfl

/-! ### The data mnemonics under any latch -/

/-- The byte of the one ill-formed LATCH_TONE is a LATCH_NOISE byte. -/
theorem latchToneByte_three : ∀ n : BitVec 4,
    latchToneByte 3 n = latchNoiseByte (n.extractLsb' 3 1) (n.extractLsb' 0 3) := by decide

/-- Settles O25: each mnemonic is the WRITE of its byte, and so is what the byte decodes to. -/
theorem dataMnemonicsActByTheirByte : Obligations.DataMnemonicsActByTheirByte := fun s =>
  ⟨fun x h => (exec_decodeByte s.chip.latch (dataToneByte x h) s).symm,
    fun x c => (exec_decodeByte s.chip.latch (dataNoiseByte x c) s).symm,
    fun x a => (exec_decodeByte s.chip.latch (dataVolByte x a) s).symm,
    fun n => congrArg (fun b => complete (writeByte params b s.chip) .nothing s) (latchToneByte_three n)⟩

/-! ### The two bytes of a period in either order -/

/-- The upper six bits and the low nibble replace different parts of a period, so their order does not matter. -/
theorem periodWithLow_periodWithHigh (old P : Period) :
    periodWithLow (periodWithHigh old (P.extractLsb' 4 6)) (P.extractLsb' 0 4) = P := by
  have hhigh : (periodWithHigh old (P.extractLsb' 4 6)).extractLsb' 4 6 = P.extractLsb' 4 6 :=
    BitVec.extractLsb'_append_eq_left
  rw [periodWithLow, hhigh]
  exact (BitVec.extractLsb'_append_extractLsb'_eq_extractLsb' rfl).trans BitVec.extractLsb'_eq_self

/-- The data byte first, under a latch on `ch'`: each byte writes its part of its own channel's period (R74). -/
theorem writeByte_tonePair_reversed (p : Config.Params) {ch ch' : BitVec 2} (hch : ch ≠ 3) (hch' : ch' ≠ 3) {c : Chip}
    (hL : c.latch = ch' ++ 0#1) (x : BitVec 1) (h : BitVec 6) (n : BitVec 4) :
    writeByte p (latchToneByte ch n) (writeByte p (dataToneByte x h) c) =
      let freq := c.freq.set (channelOf ch') (periodWithHigh c.freq[channelOf ch'] h)
      { c with latch := ch ++ 0#1, freq := freq.set (channelOf ch) (periodWithLow freq[channelOf ch] n) } := by
  rw [writeByte_dataToneByte_of_latch p hch' hL, writeByte_latchToneByte p hch]

/-- Two channels are two entries of a field. -/
theorem getElem_set_channel_of_ne {α : Type} (v : Vector α 4) {ch ch' : BitVec 2} (h : ch' ≠ ch) (x : α) :
    (v.set (channelOf ch') x)[channelOf ch] = v[channelOf ch] :=
  Vector.getElem_set_ne _ _ fun hval => h (BitVec.eq_of_toNat_eq hval)

/-- Settles O28: both orders set the whole period of one channel, and the halves of two channels are two entries. -/
theorem oppositeOrderWritesThePreviousRegister : Obligations.OppositeOrderWritesThePreviousRegister := by
  intro s ch ch' P hch hch' hL lo hi
  have hreversed : runTxns [hi, lo] s = complete (writeByte params (latchToneByte ch (P.extractLsb' 0 4))
      (writeByte params (dataToneByte 0 (P.extractLsb' 4 6)) s.chip)) .nothing s := by
    rw [runTxns_write, runTxns_write, truncByte_latchTone_low, truncByte_dataTone_high]
    rfl
  rw [writeByte_tonePair_reversed params hch hch' hL] at hreversed
  refine ⟨?_, fun hne => ⟨_, hreversed, ?_, ?_⟩⟩
  · rintro rfl
    rw [hreversed, runTxns_write, runTxns_write, truncByte_latchTone_low, truncByte_dataTone_high,
      writeByte_tonePair params hch]
    simp [periodWithLow_periodWithHigh, complete, runTxns]
  · simp only [Fin.getElem_fin, Vector.getElem_set_self]
    exact congrArg (periodWithLow · _) (getElem_set_channel_of_ne _ hne _)
  · refine (getElem_set_channel_of_ne _ hne.symm _).trans ?_
    simp only [Fin.getElem_fin, Vector.getElem_set_self]
    rfl

/-! ### The pseudo-instruction `tone` -/

/-- Settles O29: the assembled integers are those of the pair of bytes, whose effect is known (R54, R63). -/
theorem tonePseudoSetsThePeriod : Obligations.TonePseudoSetsThePeriod := by
  intro ch p s hch hp
  refine ⟨_, if_pos ⟨hch, hp⟩, ?_⟩
  have hchannel : (BitVec.ofNat 2 ch).toNat = ch := by simp; omega
  have hperiod : (BitVec.ofNat 10 p).toNat = p := by simp; omega
  have htone : BitVec.ofNat 2 ch ≠ 3 := fun h => by
    have hthree : 3 = ch := (congrArg BitVec.toNat h).symm.trans hchannel
    omega
  have hlatch : BitVec.ofNat 3 (2 * ch) = BitVec.ofNat 2 ch ++ 0#1 := by
    interval_cases ch <;> rfl
  have hlow : asmLt ch (p &&& 0xF) =
      ⟨1, 0x80 ||| (BitVec.ofNat 2 ch).toNat <<< 5 ||| (BitVec.ofNat 10 p).toNat % 16⟩ := by
    rw [hchannel, hperiod, asmLt, callWrite, Nat.and_two_pow_sub_one_eq_mod p 4]
  have hhigh : callWrite (p >>> 4) = ⟨1, (BitVec.ofNat 10 p).toNat / 16⟩ := by
    rw [hperiod, callWrite, Nat.shiftRight_eq_div_pow]
  rw [hlow, hhigh, runTxns_write, runTxns_write, truncByte_latchTone_low, truncByte_dataTone_high,
    writeByte_tonePair params htone, hlatch]
  rfl

end Sys2Proof.Machine
end

section
/-!
One TICK as a whole (41_period_counter_and_noise.md rules R76 to R82): the next state as one formula, the effects that meet in one
tick, and the clear that a noise write requests.
-/

namespace Sys2Proof.Machine

/-! ### The bit-level forms -/

theorem pushEdge_eq_append (h : BitVec 2) (tap : Bool) :
    pushEdge h tap = BitVec.ofBool (h.getLsbD 0) ++ BitVec.ofBool tap := by
  revert h tap; decide

/-- A shift by one keeps the low 15 bits and lets a bit in at bit 0 (R78). -/
theorem shiftIn_eq_or (n : BitVec 16) (b : Bool) :
    n.extractLsb' 0 15 ++ BitVec.ofBool b = n <<< 1 ||| (BitVec.ofBool b).setWidth 16 := by
  refine BitVec.eq_of_getLsbD_eq fun i hi => ?_
  simp only [BitVec.getLsbD_append, BitVec.getLsbD_or, BitVec.getLsbD_shiftLeft, BitVec.getLsbD_setWidth,
    BitVec.getLsbD_extractLsb']
  obtain rfl | hpos := Nat.eq_zero_or_pos i
  · simp
  · have hhigh : (BitVec.ofBool b).getLsbD i = false := BitVec.getLsbD_of_ge _ i hpos
    have hlow : i - 1 < 15 := by omega
    simp [hi, hlow, hhigh, Nat.not_lt.mpr hpos]

theorem setFlag_if (f : Flags4) (i : Channel) (b : Bool) :
    (if b then setFlag f i else f) = f ||| (if b then 1#4 <<< i.val else 0) := by
  cases b with
  | true => rfl
  | false => exact (BitVec.or_zero).symm

theorem periodReached_eq_decide (c : Chip) :
    periodReached c = decide (c.freq[channelOf c.cycle].toNat ≤ c.counter[channelOf c.cycle].toNat) := by
  rw [Bool.eq_iff_iff, periodReached_iff, decide_eq_true_iff]

theorem delayLine_eq_shiftLeft : ∀ line : BitVec 2, line.extractLsb' 0 1 ++ 0#1 = line <<< 1 := by decide

/-- Settles O30: TICK's frame, and each of its seven fields in the statement's form. -/
theorem tickNextState : Obligations.TickNextState := by
  intro s c i tap inj reached
  have hupdate : (tickChip params c).noiseUpdate = BitVec.ofBool (c.noiseUpdate.getLsbD 0) ++ BitVec.ofBool tap :=
    (tickChip_noiseUpdate params c).trans (pushEdge_eq_append _ _)
  have hinj : injectedBit params c = inj := by
    simp only [inj, injectedBit, params_noiseWhiteValue, beq_eq_decide, Bool.bne_eq_xor]
    rfl
  have hnoise : (tickChip params c).noise =
      if c.noiseReset.getLsbD 1 then (0 : BitVec 16)
      else if !c.noiseUpdate.getLsbD 0 && tap then (c.noise <<< 1) ||| (BitVec.ofBool inj).setWidth 16
      else c.noise := by
    rw [tickChip_noise, risingEdge_pushEdge, shiftIn_eq_or, hinj]
    rfl
  have hreached : periodReached c = reached := periodReached_eq_decide c
  have hinverse : (tickChip params c).inverse =
      (if c.cycle = 0 then 0 else c.inverse) ||| (if reached then 1#4 <<< i.val else 0) := by
    rw [tickChip_inverse, setFlag_if, hreached]
    rfl
  have hcounter : (tickChip params c).counter = c.counter.set i (if reached then 0 else c.counter[i] + 1) := by
    rw [tickChip_counter, hreached]
    rfl
  refine congrArg (complete · .nothing s) ((tickChip_frame params c).trans ?_)
  rw [hupdate, hnoise, tickChip_sign, hinverse, hcounter, tickChip_cycle, tickChip_noiseReset, delayLine_eq_shiftLeft]
  rfl

/-! ### Effects that meet in one tick -/

/-- The clear wins over a shift of the same tick (R79, D11). -/
theorem tickChip_noise_of_clear (p : Config.Params) {c : Chip} (h : c.noiseReset.getLsbD 1 = true) :
    (tickChip p c).noise = 0 := by
  rw [tickChip_noise, if_pos h]

/-- Settles O35: the clear, the two effects of the round boundary, and the sampled bit. -/
theorem simultaneousEffectsOfOneTick : Obligations.SimultaneousEffectsOfOneTick := by
  intro s
  have hsampled : ∀ (h : BitVec 2) (tap : Bool), (pushEdge h tap).getLsbD 0 = tap := by decide
  refine ⟨_, rfl, tickChip_noise_of_clear params, fun hcycle => ⟨?_, fun hge => ?_⟩, ?_⟩
  · exact (tickChip_sign params s.chip).trans (if_pos hcycle)
  · exact (tickChip_inverse_of_boundary params hcycle).trans (if_pos hge)
  · change (tickChip params s.chip).noiseUpdate.getLsbD 0 = _
    rw [tickChip_noiseUpdate, hsampled]
    rfl

/-! ### The clear of a noise write -/

/-- Settles O36: the request stands in bit 0 of the line after the write and in bit 1 after the first tick, so the second tick
clears. -/
theorem noiseWriteClearsAtTheSecondTick : Obligations.NoiseWriteClearsAtTheSecondTick := by
  intro s b hL
  let w := writeByte params b s.chip
  have hfirst : (tickChip params w).noiseReset = 0b10 := by
    have hline : ∀ r : BitVec 1, (r ++ 1#1).extractLsb' 0 1 ++ 0#1 = 0b10#2 := by decide
    have hw : w = noiseConfigured (noiseField b) { s.chip with latch := 6 } := writeByte_of_updatedLatch_noise hL
    rw [tickChip_noiseReset, hw]
    exact hline _
  have hsecond : (tickChip params (tickChip params w)).noiseReset = 0b00 := by
    rw [tickChip_noiseReset, hfirst]
    rfl
  have hwrite : runTxns [⟨1, b.toNat⟩] s = complete w .nothing s := by
    rw [runTxns_write, truncByte_toNat]
    rfl
  refine ⟨_, _, _, hwrite, rfl, rfl, writeByte_noise params b s.chip, hfirst, ?_, hsecond, ?_, ?_, ?_⟩
  · exact tickChip_noise_of_clear params (by rw [hfirst]; rfl)
  · exact (tickChip_noiseData _ _).trans (tickChip_noiseData _ _)
  · exact (tickChip_noiseType _ _).trans (tickChip_noiseType _ _)
  · exact (tickChip_freq _ _).trans (tickChip_freq _ _)

/-! ### The LFSR -/

/-- From low 15 bits zero the injected bit is 1 in either mode (R78). -/
theorem injectedBit_of_lowBits_zero (p : Config.Params) {c : Chip} (h : c.noise.extractLsb' 0 15 = 0) :
    injectedBit p c = true := by
  rw [injectedBit, decide_eq_true h, Bool.true_or]

/-- In periodic mode only the all-zero low 15 bits inject a 1 (R78). -/
theorem injectedBit_of_periodic {p : Config.Params} {c : Chip} (h : c.noiseType ≠ p.noiseWhiteValue) :
    injectedBit p c = decide (c.noise.extractLsb' 0 15 = 0) := by
  rw [injectedBit, decide_eq_false h, Bool.false_and, Bool.or_false]

/-- Settles O37: no clear, a rising edge, and the bit the zero state injects. -/
theorem lfsrSelfRecovery : Obligations.LfsrSelfRecovery := by
  intro p c hzero hlow htap hclear
  have hrising : risingEdge (pushEdge c.noiseUpdate (noiseTap c)) = true := by
    rw [risingEdge_pushEdge, hlow]
    exact htap
  rw [tickChip_noise, if_neg (ne_true_of_eq_false hclear), if_pos hrising, hzero, injectedBit_of_lowBits_zero p hzero]
  rfl

/-- Settles O38: the sixteen one-bit states one by one. -/
theorem periodicNoiseIsASixteenCycle : Obligations.PeriodicNoiseIsASixteenCycle := by
  intro p c k hk htype hrising hnoise
  have hstates : ∀ k < 16,
      (1#16 <<< k).extractLsb' 0 15 ++ BitVec.ofBool (decide ((1#16 <<< k).extractLsb' 0 15 = (0 : BitVec 15))) =
        1#16 <<< ((k + 1) % 16) ∧
      ((1#16 <<< k).getLsbD 14 = true ↔ k = 14) := by decide
  obtain ⟨hshift, hgate⟩ := hstates k hk
  refine ⟨?_, ?_⟩
  · rw [shiftNoise_noise, if_pos hrising, injectedBit_of_periodic htype, hnoise, hshift]
  · rw [gate, if_pos rfl, hnoise, hgate]

/-! ### The counters -/

/-- Below its period a counter is below the greatest 10-bit value, so counting does not wrap. -/
theorem toNat_succ_of_lt {a b : Period} (h : a.toNat < b.toNat) : (a + 1).toNat = a.toNat + 1 := by
  have hb := b.isLt
  rw [BitVec.toNat_add]
  exact Nat.mod_eq_of_lt (by change a.toNat + 1 < _; omega)

/-- Settles O41: the other channels' counters stay, and the visited one resets or counts below its period. -/
theorem countersNeverWrap : Obligations.CountersNeverWrap := by
  intro s i
  refine ⟨_, rfl, ?_⟩
  change (tickChip params s.chip).counter[i] = _ ∨ (tickChip params s.chip).counter[i] = _ ∨
    (tickChip params s.chip).counter[i].toNat = _ ∧ (tickChip params s.chip).counter[i].toNat ≤ _
  by_cases hi : i = channelOf s.chip.cycle
  · subst hi
    rw [tickChip_counter_visited]
    split
    · exact .inr (.inl rfl)
    next hlt =>
      have hlt := Nat.not_le.mp hlt
      rw [toNat_succ_of_lt hlt]
      exact .inr (.inr ⟨rfl, hlt⟩)
  · exact .inl (tickChip_counter_of_ne params hi)

/-- A last TICK call is that instruction. -/
theorem runTxns_tick (s : State) : runTxns [⟨2, 0⟩] s = exec .tick s := rfl

/-- Settles O42: a WRITE keeps the flips, the position and the counters, and the tick after it counts as any tick does. -/
theorem loweredPeriodOverflowsAtTheNextVisit : Obligations.LoweredPeriodOverflowsAtTheNextVisit := by
  intro s b i
  have hwrite := runTxns_write b.toNat
  simp only [truncByte_toNat] at hwrite
  refine ⟨_, _, hwrite [] s, (hwrite _ s).trans (runTxns_tick _), writeByte_inverse params b s.chip, fun hi hge => ?_⟩
  obtain ⟨t, ht, hreached, -⟩ := periodCounting { s with chip := writeByte params b s.chip, result := .nothing } i
    (by rw [← hi, ← writeByte_cycle params b s.chip])
  obtain rfl := Host.Outcome.next.inj ht
  exact hreached (by simpa using hge)

/-- Settles O43: the two runs from reset. -/
theorem firstTicksAfterReset : Obligations.FirstTicksAfterReset :=
  ⟨⟨_, rfl, by decide⟩, ⟨_, rfl, by decide⟩⟩

end Sys2Proof.Machine
end

section
/-!
The oscillators over many ticks (41_period_counter_and_noise.md section 3): one round of four ticks as seen by one channel, the
latency of a flip, and the square wave.
-/

namespace Sys2Proof.Machine

/-! ### Ticks in a row -/

theorem tickTimes_add (p : Config.Params) (m n : Nat) (c : Chip) :
    tickTimes p (m + n) c = tickTimes p n (tickTimes p m c) := by
  induction m generalizing c with
  | zero => rw [Nat.zero_add]; rfl
  | succ m ih => rw [Nat.succ_add]; exact ih _

/-- The last of `n + 1` ticks follows the others. -/
theorem tickTimes_succ (p : Config.Params) (n : Nat) (c : Chip) :
    tickTimes p (n + 1) c = tickChip p (tickTimes p n c) := tickTimes_add p n 1 c

@[simp] theorem tickTimes_freq (p : Config.Params) (n : Nat) (c : Chip) : (tickTimes p n c).freq = c.freq := by
  induction n with
  | zero => rfl
  | succ n ih => rw [tickTimes_succ, tickChip_freq, ih]

theorem tickTimes_cycle_toNat (p : Config.Params) (n : Nat) (c : Chip) :
    (tickTimes p n c).cycle.toNat = (c.cycle.toNat + n) % 4 := by
  induction n with
  | zero => exact (Nat.mod_eq_of_lt c.cycle.isLt).symm
  | succ n ih => rw [tickTimes_succ, tickChip_cycle_toNat, ih, Nat.mod_add_mod, Nat.add_assoc]

theorem tickTimes_cycle_ne_zero_iff (p : Config.Params) (n : Nat) (c : Chip) :
    (tickTimes p n c).cycle ≠ 0 ↔ (c.cycle.toNat + n) % 4 ≠ 0 := by
  rw [← tickTimes_cycle_toNat]
  exact not_congr BitVec.toNat_inj.symm

/-! ### Inside a round -/

/-- Ticks that meet no round boundary leave the polarities (R80). -/
theorem tickTimes_sign_of_noBoundary (p : Config.Params) {c : Chip} {n : Nat}
    (h : ∀ k < n, (tickTimes p k c).cycle ≠ 0) : (tickTimes p n c).sign = c.sign := by
  induction n with
  | zero => rfl
  | succ n ih =>
    rw [tickTimes_succ, tickChip_sign, if_neg (h n n.lt_succ_self), ih fun k hk => h k (Nat.lt_succ_of_lt hk)]

/-- Ticks that meet no round boundary keep a pending flip pending (R80, R81). -/
theorem tickTimes_inverse_of_noBoundary (p : Config.Params) {c : Chip} {n : Nat} {i : Channel}
    (h : ∀ k < n, (tickTimes p k c).cycle ≠ 0) (hflip : flag c.inverse i = true) :
    flag (tickTimes p n c).inverse i = true := by
  induction n with
  | zero => exact hflip
  | succ n ih =>
    rw [tickTimes_succ, flag_tickChip_inverse, ih fun k hk => h k (Nat.lt_succ_of_lt hk),
      bne_iff_ne.mpr (h n n.lt_succ_self)]
    rfl

/-- A tick at the round boundary applies a channel's pending flip to its polarity. -/
theorem flag_tickChip_sign_of_boundary (p : Config.Params) {c : Chip} (h : c.cycle = 0) (i : Channel) :
    flag (tickChip p c).sign i = (flag c.sign i ^^ flag c.inverse i) := by
  rw [tickChip_sign, if_pos h, flag_resolveSign]

/-- A visit at the period requests the visited channel's flip (R81). -/
theorem flag_tickChip_inverse_of_reached (p : Config.Params) {c : Chip} (h : periodReached c = true) :
    flag (tickChip p c).inverse (channelOf c.cycle) = true := by
  rw [flag_tickChip_inverse, h, decide_eq_true rfl, Bool.and_true, Bool.or_true]

/-- Settles O39: the overflow's flip stays pending up to the end of the round, where the next tick applies it. -/
theorem flipLatency : Obligations.FlipLatency := by
  rintro p c _ rfl hreached
  have hval : (channelOf c.cycle).val = c.cycle.toNat := rfl
  have hlt := c.cycle.isLt
  have hround : ∀ k < 3 - c.cycle.toNat, (tickTimes p k (tickChip p c)).cycle ≠ 0 := fun k hk => by
    rw [tickTimes_cycle_ne_zero_iff, tickChip_cycle_toNat]
    omega
  rw [hval]
  constructor
  · intro n hpos hn
    obtain ⟨n, rfl⟩ := Nat.exists_eq_add_of_le' hpos
    have hkept : (tickTimes p n (tickChip p c)).sign = (tickChip p c).sign :=
      tickTimes_sign_of_noBoundary p fun k hk => hround k (by omega)
    exact congrArg (flag · _) hkept
  · have hlast : 5 - c.cycle.toNat = (3 - c.cycle.toNat) + 1 + 1 := by omega
    have hboundary : (tickTimes p (3 - c.cycle.toNat) (tickChip p c)).cycle = 0 := by
      refine BitVec.eq_of_toNat_eq ?_
      rw [tickTimes_cycle_toNat, tickChip_cycle_toNat]
      change _ = 0
      omega
    have hflip := flag_tickChip_inverse_of_reached p ((periodReached_iff c).mpr hreached)
    rw [hlast, tickTimes_succ]
    refine (flag_tickChip_sign_of_boundary p hboundary _).trans ?_
    rw [tickTimes_sign_of_noBoundary p hround, tickTimes_inverse_of_noBoundary p hround hflip, Bool.xor_true]
    rfl

/-! ### One round

From a round boundary, each channel is visited once in the next four ticks, at the tick of its own number. -/

/-- A tick counts the channel it visits and leaves the other counters. -/
theorem tickChip_counter_get (p : Config.Params) (c : Chip) (i : Channel) :
    (tickChip p c).counter[i] =
      if channelOf c.cycle = i then (if c.freq[i].toNat ≤ c.counter[i].toNat then 0 else c.counter[i] + 1)
      else c.counter[i] := by
  split
  next h =>
    subst h
    exact tickChip_counter_visited p c
  next h => exact tickChip_counter_of_ne p (Ne.symm h)

/-- The flip a tick requests for a channel, said with the channel's own counter and period. -/
theorem periodReached_and_visited (c : Chip) (i : Channel) :
    (periodReached c && decide (channelOf c.cycle = i)) =
      (decide (channelOf c.cycle = i) && decide (c.freq[i].toNat ≤ c.counter[i].toNat)) := by
  by_cases h : channelOf c.cycle = i
  · subst h
    rw [periodReached_eq_decide, Bool.and_comm]
  · rw [decide_eq_false h, Bool.and_false, Bool.false_and]

section Round

variable (p : Config.Params) {c : Chip} (hboundary : c.cycle = 0) (i : Channel)
include hboundary

theorem tickTimes_visits_iff {k : Nat} (hk : k < 4) : channelOf (tickTimes p k c).cycle = i ↔ k = i.val := by
  have hcycle : (channelOf (tickTimes p k c).cycle).val = k := by
    change (tickTimes p k c).cycle.toNat = k
    rw [tickTimes_cycle_toNat, hboundary]
    exact (congrArg (· % 4) (Nat.zero_add k)).trans (Nat.mod_eq_of_lt hk)
  rw [Fin.ext_iff, hcycle]

/-- Before its visit the channel's counter stands, from its visit on it is the counted one. -/
theorem tickTimes_counter_in_round (k : Nat) (hk : k ≤ 4) :
    (tickTimes p k c).counter[i] =
      if k ≤ i.val then c.counter[i] else if c.freq[i].toNat ≤ c.counter[i].toNat then 0 else c.counter[i] + 1 := by
  induction k with
  | zero => exact (if_pos (Nat.zero_le _)).symm
  | succ k ih =>
    rw [tickTimes_succ, tickChip_counter_get, tickTimes_freq, ih (Nat.le_of_succ_le hk),
      if_congr (tickTimes_visits_iff p hboundary i hk) rfl rfl]
    by_cases hvisit : k = i.val
    · rw [if_pos hvisit, if_pos hvisit.le, if_neg (show ¬k + 1 ≤ i.val by omega)]
    · rw [if_neg hvisit]
      exact if_congr (by omega) rfl rfl

/-- A channel's flip after a tick of the round: what was pending inside the round, or the channel's own at its visit. -/
theorem tickTimes_inverse_succ_in_round {k : Nat} (hk : k < 4) :
    flag (tickTimes p (k + 1) c).inverse i =
      ((tickTimes p k c).cycle != 0 && flag (tickTimes p k c).inverse i ||
        (decide (k = i.val) && decide (c.freq[i].toNat ≤ c.counter[i].toNat))) := by
  have hvisit : decide (channelOf (tickTimes p k c).cycle = i) = decide (k = i.val) :=
    decide_eq_decide.mpr (tickTimes_visits_iff p hboundary i hk)
  rw [tickTimes_succ, flag_tickChip_inverse, periodReached_and_visited, hvisit, tickTimes_freq]
  by_cases h : k = i.val
  · rw [tickTimes_counter_in_round p hboundary i k hk.le, if_pos h.le]
  · rw [decide_eq_false h, Bool.false_and, Bool.false_and]

/-- Of the flips pending at the boundary none is left, and the channel's own is requested at its visit. -/
theorem tickTimes_inverse_in_round (k : Nat) (hk : k < 4) :
    flag (tickTimes p (k + 1) c).inverse i =
      (decide (i.val ≤ k) && decide (c.freq[i].toNat ≤ c.counter[i].toNat)) := by
  rw [tickTimes_inverse_succ_in_round p hboundary i hk]
  induction k with
  | zero =>
    have hcycle : ((tickTimes p 0 c).cycle != 0) = false := by rw [tickTimes, hboundary]; rfl
    rw [hcycle, Bool.false_and, Bool.false_or]
    exact congrArg (· && _) (decide_eq_decide.mpr (by omega))
  | succ k ih =>
    have hcycle : (tickTimes p (k + 1) c).cycle ≠ 0 := by
      rw [tickTimes_cycle_ne_zero_iff, hboundary]
      change (0 + (k + 1)) % 4 ≠ 0
      omega
    rw [bne_iff_ne.mpr hcycle, Bool.true_and, tickTimes_inverse_succ_in_round p hboundary i (Nat.lt_of_succ_lt hk),
      ih (Nat.lt_of_succ_lt hk), ← Bool.and_or_distrib_right, ← Bool.decide_or]
    exact congrArg (· && _) (decide_eq_decide.mpr (by omega))

/-- The polarity in the round: the flip pending at the boundary is applied at the first tick. -/
theorem tickTimes_sign_in_round {k : Nat} (hk : k < 4) :
    flag (tickTimes p (k + 1) c).sign i = (flag c.sign i ^^ flag c.inverse i) := by
  have hinside : ∀ j < k, (tickTimes p j (tickChip p c)).cycle ≠ 0 := fun j hj => by
    rw [tickTimes_cycle_ne_zero_iff, tickChip_cycle_toNat, hboundary]
    change ((0 + 1) % 4 + j) % 4 ≠ 0
    omega
  change flag (tickTimes p k (tickChip p c)).sign i = _
  rw [tickTimes_sign_of_noBoundary p hinside, flag_tickChip_sign_of_boundary p hboundary]

/-- The position, counter and flip at the next boundary. -/
theorem tickTimes_round :
    (tickTimes p 4 c).cycle = 0 ∧
    (tickTimes p 4 c).counter[i] = (if c.freq[i].toNat ≤ c.counter[i].toNat then 0 else c.counter[i] + 1) ∧
    flag (tickTimes p 4 c).inverse i = decide (c.freq[i].toNat ≤ c.counter[i].toNat) := by
  have hlast : ¬4 ≤ i.val := Nat.not_le.mpr i.isLt
  refine ⟨BitVec.eq_of_toNat_eq ?_, ?_, ?_⟩
  · rw [tickTimes_cycle_toNat, hboundary]
    rfl
  · rw [tickTimes_counter_in_round p hboundary i 4 le_rfl, if_neg hlast]
  · rw [tickTimes_inverse_in_round p hboundary i 3 (by decide), decide_eq_true (Nat.le_of_lt_succ i.isLt), Bool.true_and]

end Round

/-! ### The square wave -/

/-- A round boundary at which the channel has just overflowed: its counter is 0 and its flip pending (R81). -/
structure JustOverflowed (i : Channel) (c : Chip) : Prop where
  boundary : c.cycle = 0
  counter : c.counter[i] = 0
  pending : flag c.inverse i = true

section SquareWave

variable (p : Config.Params) {c : Chip} {i : Channel} (h : JustOverflowed i c)
include h

/-- Up to its period the channel counts one per round, and the polarity that its next round shows is the flipped one. -/
theorem JustOverflowed.counting (r : Nat) (hr : r ≤ c.freq[i].toNat) :
    (tickTimes p (4 * r) c).cycle = 0 ∧ (tickTimes p (4 * r) c).counter[i].toNat = r ∧
    (flag (tickTimes p (4 * r) c).sign i ^^ flag (tickTimes p (4 * r) c).inverse i) = !flag c.sign i := by
  induction r with
  | zero => exact ⟨h.boundary, congrArg BitVec.toNat h.counter, by rw [Nat.mul_zero, tickTimes, h.pending, Bool.xor_true]⟩
  | succ r ih =>
    obtain ⟨hcycle, hcounter, hsign⟩ := ih (Nat.le_of_succ_le hr)
    obtain ⟨hcycle', hcounter', hinverse'⟩ := tickTimes_round p hcycle i
    have hsign' := tickTimes_sign_in_round p hcycle i (show 3 < 4 by decide)
    have hbelow : ¬(tickTimes p (4 * r) c).freq[i].toNat ≤ (tickTimes p (4 * r) c).counter[i].toNat := by
      rw [tickTimes_freq, hcounter]
      omega
    rw [if_neg hbelow] at hcounter'
    rw [decide_eq_false hbelow] at hinverse'
    rw [Nat.mul_succ, tickTimes_add]
    refine ⟨hcycle', ?_, ?_⟩
    · rw [hcounter', toNat_succ_of_lt (Nat.not_le.mp hbelow), hcounter]
    · rw [hinverse', Bool.xor_false, hsign', hsign]

/-- In the half-period after the overflow the polarity is the flipped one, from the first tick to the last. -/
theorem JustOverflowed.sign {n : Nat} (hpos : 1 ≤ n) (hn : n ≤ 4 * (c.freq[i].toNat + 1)) :
    flag (tickTimes p n c).sign i = !flag c.sign i := by
  obtain ⟨hcycle, -, hsign⟩ := h.counting p ((n - 1) / 4) (by omega)
  have hsplit : n = 4 * ((n - 1) / 4) + ((n - 1) % 4 + 1) := by omega
  rw [hsplit, tickTimes_add, tickTimes_sign_in_round p hcycle i (Nat.mod_lt _ (by decide)), hsign]

/-- The half-period ends at the next overflow. -/
theorem JustOverflowed.halfPeriod : JustOverflowed i (tickTimes p (4 * (c.freq[i].toNat + 1)) c) := by
  obtain ⟨hcycle, hcounter, -⟩ := h.counting p c.freq[i].toNat le_rfl
  obtain ⟨hcycle', hcounter', hinverse'⟩ := tickTimes_round p hcycle i
  have hreached : (tickTimes p (4 * c.freq[i].toNat) c).freq[i].toNat ≤
      (tickTimes p (4 * c.freq[i].toNat) c).counter[i].toNat := by
    rw [tickTimes_freq, hcounter]
  rw [Nat.mul_succ, tickTimes_add]
  exact ⟨hcycle', by rw [hcounter', if_pos hreached], by rw [hinverse', decide_eq_true hreached]⟩

end SquareWave

/-- Settles O40, by induction on the half-periods: each is one `JustOverflowed.halfPeriod`. -/
theorem squareWaveHalfPeriod : Obligations.SquareWaveHalfPeriod := by
  intro p c i hboundary hcounter hpending m n hpos hn
  have h : JustOverflowed i c := ⟨hboundary, hcounter, hpending⟩
  clear hboundary hcounter hpending
  induction m generalizing c with
  | zero =>
    rw [Nat.zero_mul, Nat.zero_add, h.sign p hpos hn]
    exact (Bool.bne_true _).symm
  | succ m ih =>
    have hsplit : (m + 1) * (4 * (c.freq[i].toNat + 1)) + n =
        4 * (c.freq[i].toNat + 1) + (m * (4 * (c.freq[i].toNat + 1)) + n) := by ring
    have ih := ih (tickTimes p (4 * (c.freq[i].toNat + 1)) c)
    rw [tickTimes_freq, h.sign p (by omega) le_rfl] at ih
    rw [hsplit, tickTimes_add, ih hn (h.halfPeriod p), Bool.not_bne]
    have hparity : decide ((m + 1) % 2 = 0) = !decide (m % 2 = 0) := by
      rw [← decide_not]
      exact decide_eq_decide.mpr (by omega)
    rw [hparity, Bool.bne_not]

end Sys2Proof.Machine
end

section
/-!
Binary32 by its bits (00_scope.md rule R7): the magnitude as a strictly monotone function of the low 31 bits, and the rounding as
the nearest value of that function, ties to even.
-/

namespace Sys2Proof.Machine

/-! ### The value of the low 31 bits -/

/-- The exponent field and the fraction of a binary32 value, as one number. -/
def f32Low (x : F32) : Nat := x.toNat % 2 ^ 31

/-- The magnitude, in units of 2^-149, of a value with these low bits. -/
def f32LowMagnitude (m : Nat) : Nat :=
  if m / 2 ^ 23 = 0 then m % 2 ^ 23 else (2 ^ 23 + m % 2 ^ 23) * 2 ^ (m / 2 ^ 23 - 1)

theorem f32Exp_eq_low (x : F32) : f32Exp x = f32Low x / 2 ^ 23 := by
  rw [f32Exp, f32Low, BitVec.extractLsb'_toNat, Nat.shiftRight_eq_div_pow]
  omega

theorem f32Frac_eq_low (x : F32) : f32Frac x = f32Low x % 2 ^ 23 := by
  rw [f32Frac, f32Low, BitVec.extractLsb'_toNat, Nat.shiftRight_zero]
  omega

theorem f32Magnitude_eq_low (x : F32) : f32Magnitude x = f32LowMagnitude (f32Low x) := by
  rw [f32Magnitude, f32Exp_eq_low, f32Frac_eq_low, f32LowMagnitude]

theorem f32Finite_iff_low (x : F32) : f32Finite x = true ↔ f32Low x < 0x7F800000 := by
  have hlow : f32Low x < 2 ^ 31 := Nat.mod_lt _ (by decide)
  rw [f32Finite, bne_iff_ne, f32Exp_eq_low]
  omega

/-- A significand `q` scaled by `2 ^ k` has the low bits `k * 2 ^ 23 + q`: a carry out of the significand raises the exponent. -/
theorem f32LowMagnitude_significand {k q : Nat} (hq : q ≤ 2 ^ 24) (hk : k = 0 ∨ 2 ^ 23 ≤ q) :
    f32LowMagnitude (k * 2 ^ 23 + q) = q * 2 ^ k := by
  obtain hsub | hnormal | rfl : (k = 0 ∧ q < 2 ^ 23) ∨ (2 ^ 23 ≤ q ∧ q < 2 ^ 24) ∨ q = 2 ^ 24 := by omega
  · obtain ⟨rfl, hq⟩ := hsub
    rw [f32LowMagnitude, if_pos (by omega)]
    omega
  · obtain ⟨hlo, hhi⟩ := hnormal
    have hexp : (k * 2 ^ 23 + q) / 2 ^ 23 = k + 1 := by omega
    have hfrac : 2 ^ 23 + (k * 2 ^ 23 + q) % 2 ^ 23 = q := by omega
    rw [f32LowMagnitude, hexp, hfrac, if_neg (by omega), Nat.add_sub_cancel]
  · have hexp : (k * 2 ^ 23 + 2 ^ 24) / 2 ^ 23 = k + 2 := by omega
    have hfrac : 2 ^ 23 + (k * 2 ^ 23 + 2 ^ 24) % 2 ^ 23 = 2 ^ 23 := by omega
    rw [f32LowMagnitude, hexp, hfrac, if_neg (by omega)]
    change 2 ^ 23 * 2 ^ (k + 1) = _
    rw [Nat.pow_succ]
    ring

/-- Every number is the low bits of a significand and a scale. -/
theorem exists_significand (m : Nat) : ∃ k q, m = k * 2 ^ 23 + q ∧ q < 2 ^ 24 ∧ (k = 0 ∨ 2 ^ 23 ≤ q) := by
  by_cases h : m < 2 ^ 24
  · exact ⟨0, m, by omega, h, .inl rfl⟩
  · exact ⟨m / 2 ^ 23 - 1, 2 ^ 23 + m % 2 ^ 23, by omega, by omega, .inr (by omega)⟩

theorem f32LowMagnitude_strictMono : StrictMono f32LowMagnitude := by
  refine strictMono_nat_of_lt_succ fun m => ?_
  obtain ⟨k, q, rfl, hq, hk⟩ := exists_significand m
  rw [Nat.add_assoc, f32LowMagnitude_significand hq.le hk, f32LowMagnitude_significand hq (by omega)]
  exact Nat.mul_lt_mul_of_pos_right q.lt_succ_self (Nat.two_pow_pos k)

/-! ### The rounding -/

/-- The low bits a magnitude rounds to, before what is past the largest finite value becomes an infinity. -/
def f32NearestLow (n : Nat) : Nat :=
  let k := n.log2 - 23
  let q := n / 2 ^ k
  let r := n % 2 ^ k
  k * 2 ^ 23 + q + (if 2 ^ k < 2 * r ∨ (2 * r = 2 ^ k ∧ q % 2 = 1) then 1 else 0)

theorem f32RoundBits_eq_min (n : Nat) : f32RoundBits n = min (f32NearestLow n) 0x7F800000 := rfl

/-- The kept bits of a magnitude are a significand. -/
theorem significand_of_magnitude (n : Nat) :
    n / 2 ^ (n.log2 - 23) < 2 ^ 24 ∧ (n.log2 - 23 = 0 ∨ 2 ^ 23 ≤ n / 2 ^ (n.log2 - 23)) := by
  have hpow : 0 < 2 ^ (n.log2 - 23) := Nat.two_pow_pos _
  have hlt : n < 2 ^ (n.log2 + 1) := Nat.lt_log2_self
  constructor
  · rw [Nat.div_lt_iff_lt_mul hpow, ← Nat.pow_add]
    exact hlt.trans_le (Nat.pow_le_pow_right (by decide) (by omega))
  · refine (Nat.eq_zero_or_pos _).imp_right fun hk => ?_
    have hn : n ≠ 0 := by
      rintro rfl
      simp at hk
    rw [Nat.le_div_iff_mul_le hpow, ← Nat.pow_add, Nat.add_sub_cancel' (by omega)]
    exact Nat.log2_self_le hn

/-- `n` lies `r` above the value of the low bits `b` and below the next value, `gap` above it; it rounds to the nearer one, and to
the even one where both are as near. -/
theorem f32NearestLow_cases (n : Nat) : ∃ b gap r, n = f32LowMagnitude b + r ∧ r < gap ∧
    f32LowMagnitude (b + 1) = f32LowMagnitude b + gap ∧
    ((f32NearestLow n = b + 1 ∧ (gap < 2 * r ∨ 2 * r = gap ∧ b % 2 = 1)) ∨
      (f32NearestLow n = b ∧ (2 * r < gap ∨ 2 * r = gap ∧ b % 2 = 0))) := by
  obtain ⟨hq, hk⟩ := significand_of_magnitude n
  have hnearest : f32NearestLow n = (n.log2 - 23) * 2 ^ 23 + n / 2 ^ (n.log2 - 23) +
      (if 2 ^ (n.log2 - 23) < 2 * (n % 2 ^ (n.log2 - 23)) ∨
        (2 * (n % 2 ^ (n.log2 - 23)) = 2 ^ (n.log2 - 23) ∧ n / 2 ^ (n.log2 - 23) % 2 = 1) then 1 else 0) := rfl
  have hdiv := Nat.div_add_mod' n (2 ^ (n.log2 - 23))
  have hr := Nat.mod_lt n (Nat.two_pow_pos (n.log2 - 23))
  generalize n.log2 - 23 = k at *
  generalize n / 2 ^ k = q at *
  generalize n % 2 ^ k = r at *
  have hlo := f32LowMagnitude_significand hq.le hk
  have hhi := f32LowMagnitude_significand (k := k) (q := q + 1) hq (by omega)
  refine ⟨k * 2 ^ 23 + q, 2 ^ k, r, by rw [hlo, hdiv], hr, by rw [Nat.add_assoc, hhi, hlo, Nat.succ_mul], ?_⟩
  split at hnearest
  · exact .inl ⟨hnearest, by omega⟩
  · exact .inr ⟨by rw [hnearest, Nat.add_zero], by omega⟩

/-- No value is nearer to `n` than the one it rounds to, and where another one is as near the rounded one is even. -/
theorem f32NearestLow_nearest (n m : Nat) :
    ((f32LowMagnitude (f32NearestLow n) : Int) - n).natAbs ≤ ((f32LowMagnitude m : Int) - n).natAbs ∧
    (((f32LowMagnitude (f32NearestLow n) : Int) - n).natAbs = ((f32LowMagnitude m : Int) - n).natAbs →
      f32LowMagnitude m ≠ f32LowMagnitude (f32NearestLow n) → f32NearestLow n % 2 = 0) := by
  obtain ⟨b, gap, r, hn, hr, hnext, hcases⟩ := f32NearestLow_cases n
  have hm : f32LowMagnitude m ≤ f32LowMagnitude b ∨ f32LowMagnitude (b + 1) ≤ f32LowMagnitude m :=
    (Nat.lt_or_ge b m).symm.imp (f32LowMagnitude_strictMono.monotone ·) (f32LowMagnitude_strictMono.monotone ·)
  obtain ⟨hround, hside⟩ | ⟨hround, hside⟩ := hcases
  · rw [hround, hnext]
    omega
  · rw [hround]
    omega

/-- A representable magnitude rounds to itself. -/
theorem f32NearestLow_magnitude (m : Nat) : f32NearestLow (f32LowMagnitude m) = m := by
  obtain ⟨hle, -⟩ := f32NearestLow_nearest (f32LowMagnitude m) m
  exact f32LowMagnitude_strictMono.injective (by omega)

/-- Rounding does not pass a representable bound. -/
theorem f32NearestLow_le {n m : Nat} (h : n ≤ f32LowMagnitude m) : f32NearestLow n ≤ m := by
  obtain ⟨hle, -⟩ := f32NearestLow_nearest n m
  exact f32LowMagnitude_strictMono.le_iff_le.mp (by omega)

end Sys2Proof.Machine
end

section
/-!
Binary32 addition (00_scope.md rule R7, 42_sample_synthesizer.md rules R96 and R97): the sum of finite values as a sign and rounded
low bits, its nearness to the exact sum, its bound, and the sum with +0.0.
-/

namespace Sys2Proof.Machine

/-! ### A value by its sign and its low bits -/

/-- The value with a sign and low bits. -/
def f32OfLow (negative : Bool) (m : Nat) : F32 := BitVec.ofBool negative ++ BitVec.ofNat 31 m

theorem f32Round_eq_ofLow (negative : Bool) (n : Nat) : f32Round negative n = f32OfLow negative (f32RoundBits n) := rfl

theorem f32OfLow_toNat (negative : Bool) {m : Nat} (hm : m < 2 ^ 31) :
    (f32OfLow negative m).toNat = negative.toNat * 2 ^ 31 + m := by
  rw [f32OfLow, BitVec.toNat_append, BitVec.toNat_ofBool, BitVec.toNat_ofNat, Nat.mod_eq_of_lt hm,
    ← Nat.shiftLeft_add_eq_or_of_lt hm, Nat.shiftLeft_eq]

theorem f32Low_ofLow (negative : Bool) {m : Nat} (hm : m < 2 ^ 31) : f32Low (f32OfLow negative m) = m := by
  rw [f32Low, f32OfLow_toNat negative hm]
  omega

theorem msb_ofLow (negative : Bool) {m : Nat} (hm : m < 2 ^ 31) : (f32OfLow negative m).msb = negative := by
  rw [BitVec.msb_eq_decide, f32OfLow_toNat negative hm]
  cases negative with
  | true => exact decide_eq_true (by change _ ≤ 1 * 2 ^ 31 + m; omega)
  | false => exact decide_eq_false (by change ¬_ ≤ 0 * 2 ^ 31 + m; omega)

theorem f32OfLow_msb_low (x : F32) : f32OfLow x.msb (f32Low x) = x := by
  have hlow : f32Low x < 2 ^ 31 := Nat.mod_lt _ (by decide)
  have hx := x.isLt
  apply BitVec.eq_of_toNat_eq
  rw [f32OfLow_toNat _ hlow, f32Low]
  cases hmsb : x.msb with
  | true =>
    have hge := BitVec.msb_eq_true_iff_two_mul_ge.mp hmsb
    rw [Bool.toNat_true]
    omega
  | false =>
    have hlt := BitVec.msb_eq_false_iff_two_mul_lt.mp hmsb
    rw [Bool.toNat_false]
    omega

theorem getLsbD_zero_eq_low (x : F32) : x.getLsbD 0 = decide (f32Low x % 2 = 1) := by
  rw [BitVec.getLsbD, Nat.testBit_zero, f32Low]
  exact decide_eq_decide.mpr (by omega)

/-- The value of a finite number by its sign and its low bits. -/
theorem f32Scaled_eq_low (x : F32) :
    f32Scaled x = if x.msb then -(f32LowMagnitude (f32Low x) : Int) else f32LowMagnitude (f32Low x) := by
  rw [f32Scaled, f32Magnitude_eq_low]

theorem natAbs_f32Scaled (x : F32) : (f32Scaled x).natAbs = f32Magnitude x := by
  rw [f32Scaled]
  split <;> omega

/-! ### The sum of finite values -/

theorem f32Add_of_finite {x y : F32} (hx : f32Finite x = true) (hy : f32Finite y = true) :
    f32Add x y = f32AddFinite x y := by
  have hnan : ∀ z, f32Finite z = true → f32IsNan z = false := fun z hz => by
    rw [f32IsNan, beq_eq_false_iff_ne.mpr (bne_iff_ne.mp hz), Bool.false_and]
  simp [f32Add, hnan x hx, hnan y hy, hx, hy]

/-- The sum of finite values: a zero where the exact sum is zero, else the exact sum's sign and rounded magnitude. -/
theorem f32Add_cases {x y : F32} (hx : f32Finite x = true) (hy : f32Finite y = true) :
    (f32Scaled x + f32Scaled y = 0 ∧ f32Low (f32Add x y) = 0) ∨
    (f32Scaled x + f32Scaled y ≠ 0 ∧ (f32Add x y).msb = decide (f32Scaled x + f32Scaled y < 0) ∧
      f32Low (f32Add x y) = f32RoundBits (f32Scaled x + f32Scaled y).natAbs) := by
  rw [f32Add_of_finite hx hy, f32AddFinite]
  have hbits : f32RoundBits (f32Scaled x + f32Scaled y).natAbs < 2 ^ 31 := by
    rw [f32RoundBits_eq_min]
    omega
  by_cases hsum : f32Scaled x + f32Scaled y = 0
  · refine .inl ⟨hsum, ?_⟩
    simp only [hsum, if_true]
    split <;> rfl
  · refine .inr ⟨hsum, ?_⟩
    simp only [if_neg hsum, f32Round_eq_ofLow]
    exact ⟨msb_ofLow _ hbits, f32Low_ofLow _ hbits⟩

/-- A finite sum is no farther from the exact sum than any value, and even where another value is as near: the rounding is
nearest among the values of the sum's sign, and a value of the other sign is no nearer than zero. -/
theorem f32Add_nearest {x y : F32} (hx : f32Finite x = true) (hy : f32Finite y = true)
    (hfinite : f32Finite (f32Add x y) = true) (z : F32) :
    (f32Scaled (f32Add x y) - (f32Scaled x + f32Scaled y)).natAbs ≤ (f32Scaled z - (f32Scaled x + f32Scaled y)).natAbs ∧
    ((f32Scaled z - (f32Scaled x + f32Scaled y)).natAbs =
        (f32Scaled (f32Add x y) - (f32Scaled x + f32Scaled y)).natAbs →
      f32Scaled z ≠ f32Scaled (f32Add x y) → f32Low (f32Add x y) % 2 = 0) := by
  have hresult := f32Scaled_eq_low (f32Add x y)
  have hzero : f32LowMagnitude 0 = 0 := rfl
  obtain ⟨hsum, hlow⟩ | ⟨-, hmsb, hlow⟩ := f32Add_cases hx hy
  · rw [hlow, hzero] at hresult
    rw [hlow, hsum]
    exact ⟨by split at hresult <;> omega, fun _ _ => rfl⟩
  · have hfinite := (f32Finite_iff_low _).mp hfinite
    rw [f32RoundBits_eq_min] at hlow
    have hnearest : f32Low (f32Add x y) = f32NearestLow (f32Scaled x + f32Scaled y).natAbs := by omega
    have hz := f32Scaled_eq_low z
    obtain ⟨hle, htie⟩ := f32NearestLow_nearest (f32Scaled x + f32Scaled y).natAbs (f32Low z)
    obtain ⟨hle₀, htie₀⟩ := f32NearestLow_nearest (f32Scaled x + f32Scaled y).natAbs 0
    rw [← hnearest] at hle htie hle₀ htie₀
    rw [hmsb] at hresult
    generalize f32Scaled x + f32Scaled y = sum at *
    simp only [decide_eq_true_iff] at hresult
    split at hresult <;> split at hz <;> omega

/-- Settles O54: `f32Add_nearest`, with the last bit read off the low bits. -/
theorem additionRoundsToNearestEven : Obligations.AdditionRoundsToNearestEven := by
  intro x y hx hy hfinite sum err
  refine ⟨fun z _ => (f32Add_nearest hx hy hfinite z).1, fun z _ hne htie => ?_⟩
  rw [getLsbD_zero_eq_low, (f32Add_nearest hx hy hfinite z).2 htie hne]
  rfl

/-! ### Bounds -/

/-- Rounding does not carry a sum past a finite representable bound on the exact magnitude. -/
theorem f32Add_le {x y : F32} {m : Nat} (hx : f32Finite x = true) (hy : f32Finite y = true) (hm : m < 0x7F800000)
    (h : f32Magnitude x + f32Magnitude y ≤ f32LowMagnitude m) :
    f32Finite (f32Add x y) = true ∧ f32Magnitude (f32Add x y) ≤ f32LowMagnitude m := by
  have hlow : f32Low (f32Add x y) ≤ m := by
    obtain ⟨-, hlow⟩ | ⟨-, -, hlow⟩ := f32Add_cases hx hy
    · rw [hlow]
      exact Nat.zero_le m
    · rw [← natAbs_f32Scaled x, ← natAbs_f32Scaled y] at h
      rw [hlow, f32RoundBits_eq_min]
      exact (Nat.min_le_left _ _).trans (f32NearestLow_le ((Int.natAbs_add_le _ _).trans h))
  rw [f32Finite_iff_low, f32Magnitude_eq_low]
  exact ⟨hlow.trans_lt hm, f32LowMagnitude_strictMono.monotone hlow⟩

/-- Each channel's term is an entry of the table. -/
theorem analogTerm_eq_entry (p : Config.Params) (c : Chip) (i : Channel) : ∃ k : Fin 17, analogTerm p c i = p.volumeLut[k] := by
  have hlevel : ∀ v : Level, ∃ k : Fin 17, lutLevel p v = p.volumeLut[k] := fun v =>
    ⟨⟨v.toNat, Nat.lt_of_lt_of_le v.isLt (by decide)⟩, rfl⟩
  unfold analogTerm
  split
  · split
    · exact hlevel _
    · exact ⟨16, rfl⟩
  · exact hlevel _

/-- Settles O55: the partial sums are bounded by one to four times the bound of the entries, and all four are representable. -/
theorem analogSampleIsFinite : Obligations.AnalogSampleIsFinite := by
  intro p c hlut
  have hterm : ∀ i, f32Finite (analogTerm p c i) = true ∧ f32Magnitude (analogTerm p c i) < 2 ^ 125 * 2 ^ 149 := fun i => by
    obtain ⟨k, hk⟩ := analogTerm_eq_entry p c i
    rw [hk]
    exact hlut k
  have hone : f32LowMagnitude (252 * 2 ^ 23) = 2 ^ 125 * 2 ^ 149 := by decide
  have htwo : f32LowMagnitude (253 * 2 ^ 23) = 2 * (2 ^ 125 * 2 ^ 149) := by decide
  have hthree : f32LowMagnitude (253 * 2 ^ 23 + 2 ^ 22) = 3 * (2 ^ 125 * 2 ^ 149) := by decide
  have hfour : f32LowMagnitude (254 * 2 ^ 23) = 4 * (2 ^ 125 * 2 ^ 149) := by decide
  obtain ⟨hf0, hb0⟩ := hterm 0
  obtain ⟨hf1, hb1⟩ := hterm 1
  obtain ⟨hf2, hb2⟩ := hterm 2
  obtain ⟨hf3, hb3⟩ := hterm 3
  have hz : f32Magnitude 0 = 0 := rfl
  obtain ⟨hs0, hle0⟩ := f32Add_le (x := 0) rfl hf0 (m := 252 * 2 ^ 23) (by decide) (by omega)
  obtain ⟨hs1, hle1⟩ := f32Add_le hs0 hf1 (m := 253 * 2 ^ 23) (by decide) (by omega)
  obtain ⟨hs2, hle2⟩ := f32Add_le hs1 hf2 (m := 253 * 2 ^ 23 + 2 ^ 22) (by decide) (by omega)
  obtain ⟨hs3, -⟩ := f32Add_le hs2 hf3 (m := 254 * 2 ^ 23) (by decide) (by omega)
  exact hs3

/-! ### The sum with +0.0 -/

theorem f32_ext {x y : F32} (hmsb : x.msb = y.msb) (hlow : f32Low x = f32Low y) : x = y := by
  rw [← f32OfLow_msb_low x, ← f32OfLow_msb_low y, hmsb, hlow]

/-- Adding to +0.0 gives every finite value but -0.0 back, bit for bit. -/
theorem f32Add_zero_left {x : F32} (hx : f32Finite x = true) (hneg : x ≠ f32NegZero) : f32Add 0 x = x := by
  have hsum : f32Scaled 0 + f32Scaled x = f32Scaled x := Int.zero_add _
  have habs : (f32Scaled x).natAbs = f32LowMagnitude (f32Low x) := by rw [natAbs_f32Scaled, f32Magnitude_eq_low]
  obtain ⟨hzero, -⟩ | ⟨hne, hmsb, hlow⟩ := f32Add_cases (x := 0) rfl hx
  · rw [hsum] at hzero
    rw [hzero] at habs
    have hlow : f32Low x = 0 := f32LowMagnitude_strictMono.injective habs.symm
    have hpos : x.msb = false := Bool.eq_false_iff.mpr fun h => hneg (f32_ext h hlow)
    obtain rfl : x = 0 := f32_ext hpos hlow
    decide
  · rw [hsum] at hne hmsb hlow
    refine f32_ext ?_ ?_
    · have hx := f32Scaled_eq_low x
      rw [hmsb]
      cases hxmsb : x.msb with
      | true =>
        rw [hxmsb, if_pos rfl] at hx
        exact decide_eq_true (by omega)
      | false =>
        rw [hxmsb, if_neg Bool.false_ne_true] at hx
        exact decide_eq_false (by omega)
    · have hfinite := (f32Finite_iff_low x).mp hx
      rw [hlow, habs, f32RoundBits_eq_min, f32NearestLow_magnitude]
      omega

end Sys2Proof.Machine
end

section
/-!
The analog read (42_sample_synthesizer.md rule R96 and section 3), the read results at reset, and reads in any mix.
-/

namespace Sys2Proof.Machine

/-! ### READ_ANALOG -/

theorem exec_readAnalog (s : State) :
    exec .readAnalog s = complete (refresh s.chip) (.single (analogSample params (refresh s.chip))) s := rfl

/-- Settles O46: the terms of the refreshed chip, and the raw volume of the isolated channel. -/
theorem readAnalogResult : Obligations.ReadAnalogResult := by
  intro s out lut sel term
  have hperm : ∀ k : BitVec 2, #v[(0 : Channel), 2, 1, 3][k.toFin] = perm k := by decide
  have hsel : sel = isolated s.chip.debugReg := hperm _
  have hterm : analogTerm params (refresh s.chip) = term := by
    funext i
    change (if testMode s.chip.debugReg then if i = isolated s.chip.debugReg then _ else _ else _) =
      if testMode s.chip.debugReg = true ∧ i ≠ sel then _ else _
    rw [hsel]
    cases testMode s.chip.debugReg with
    | true => simp only [if_true, true_and, ite_not]; rfl
    | false => simp only [Bool.false_eq_true, if_false, false_and]; rfl
  refine ⟨rfl, ?_, fun htest => ?_, fun hdebug => ?_⟩
  · rw [exec_readAnalog, analogSample, hterm]
    rfl
  · exact congrArg (·[sel]) (refresh_output_of_testMode htest)
  · rw [hsel, hdebug]
    rfl

/-! ### Test mode -/

/-- In test mode the isolated channel's term is the entry of its raw volume, and every other term the calibration entry. -/
theorem analogTerm_refresh_of_testMode (p : Config.Params) {c : Chip} (h : testMode c.debugReg = true) (i : Channel) :
    analogTerm p (refresh c) i = if i = isolated c.debugReg then lutLevel p c.volume[i] else lutCalibration p := by
  rw [analogTerm, refresh_debugReg, if_pos h, refresh_output_of_testMode h]

/-- Each term of the spec's table is a finite number other than -0.0, so +0.0 added to it is that term. -/
theorem f32Add_zero_analogTerm (c : Chip) (i : Channel) : f32Add 0 (analogTerm params c i) = analogTerm params c i := by
  obtain ⟨k, hk⟩ := analogTerm_eq_entry params c i
  obtain ⟨hfinite, hneg⟩ := lutLegal_entry volumeLut_legal k.val k.isLt
  rw [hk]
  exact f32Add_zero_left hfinite hneg

theorem analogSample_eq_three_additions (c : Chip) : analogSample params c =
    f32Add (f32Add (f32Add (analogTerm params c 0) (analogTerm params c 1)) (analogTerm params c 2))
      (analogTerm params c 3) := by
  rw [analogSample, f32Add_zero_analogTerm]

theorem analogSample_refresh_of_testMode {c : Chip} {d : BitVec 3} (hd : c.debugReg = d) (h : testMode d = true) :
    analogSample params (refresh c) =
      f32Add (f32Add (f32Add
        (if 0 = isolated d then lutLevel params c.volume[0] else lutCalibration params)
        (if 1 = isolated d then lutLevel params c.volume[1] else lutCalibration params))
        (if 2 = isolated d then lutLevel params c.volume[2] else lutCalibration params))
        (if 3 = isolated d then lutLevel params c.volume[3] else lutCalibration params) := by
  subst hd
  simp only [analogSample_eq_three_additions, analogTerm_refresh_of_testMode params h]
  rfl

/-- The isolated channel at each value of `debug` that enables test mode (R33). -/
theorem isolated_of_testMode : isolated 0b001 = 0 ∧ isolated 0b011 = 2 ∧ isolated 0b101 = 1 ∧ isolated 0b111 = 3 := by decide

/-- Settles O48: the four terms at each value of `debug` that enables test mode. -/
theorem testModeIsolatesOneChannel : Obligations.TestModeIsolatesOneChannel := by
  intro s lut cal v
  obtain ⟨h0, h2, h1, h3⟩ := isolated_of_testMode
  refine ⟨_, exec_readAnalog s, fun hd => ?_, fun hd => ?_, fun hd => ?_, fun hd => ?_⟩
  · rw [analogSample_refresh_of_testMode hd rfl, h0]
    rfl
  · rw [analogSample_refresh_of_testMode hd rfl, h2]
    rfl
  · rw [analogSample_refresh_of_testMode hd rfl, h1]
    rfl
  · rw [analogSample_refresh_of_testMode hd rfl, h3]
    rfl

/-! ### Reads after reads, and reads at reset -/

/-- Settles O50: the first read leaves a refreshed chip, which no later read changes. -/
theorem readsInAnyMixAgree : Obligations.ReadsInAnyMixAgree := by
  intro s i j hi hj
  refine ⟨_, _, _, exec_read hi s, exec_read hj _, exec_read hi _, ?_, ?_⟩
  · simp only [refresh_refresh, instrResult_refresh]
  · simp only [refresh_refresh]

/-- After RESET every channel is at level 15 in normal mode, so each term is that level's entry. -/
theorem analogTerm_reset (i : Channel) : analogTerm params (refresh (Chip.resetWith params)) i = params.volumeLut[15] := by
  fin_cases i <;> rfl

/-- Settles O53: the reset chip is silent, and its four terms are the entry of level 15. -/
theorem resetStateSamples : Obligations.ResetStateSamples := by
  refine ⟨⟨_, exec_readDigital_of_silent rfl, rfl⟩, ⟨_, exec_readAnalog State.reset, congrArg Result.single ?_⟩⟩
  rw [State_reset_chip, analogSample_eq_three_additions, analogTerm_reset, analogTerm_reset, analogTerm_reset,
    analogTerm_reset]

/-! ### RESET -/

/-- Settles O56: RESET's record, with the parameters at the spec's values. -/
theorem resetWritesEveryField : Obligations.ResetWritesEveryField := ⟨fun _ => rfl, rfl⟩

end Sys2Proof.Machine
end

section
/-!
The cache and the debug index that no transaction sees, and each field's named writers (10_state.md sections 2 and 4,
42_sample_synthesizer.md section 3).
-/

namespace Sys2Proof.Machine

/-! ### An instruction as one operation on every chip -/

/-- An instruction is one operation on the chip's record, the same in every state: `exec_cases`, for two states at once. -/
theorem exec_operation (i : Instr) :
    ∃ f : Chip → Chip, (∀ s, exec i s = complete (f s.chip) (instrResult i s.chip) s) ∧
      (((encode i).tag = 1 ∧ ∃ b, f = writeByte params b) ∨
        (i = .reset ∧ f = fun _ => Chip.resetWith params) ∨
        (i = .tick ∧ f = tickChip params) ∨
        ((i = .readDigital ∨ i = .readAnalog) ∧ f = refresh) ∨
        ∃ w, i = .setDebug w ∧ f = setDebugField w) := by
  cases i with
  | latchTone ch n => exact ⟨_, fun _ => rfl, .inl ⟨rfl, _, rfl⟩⟩
  | latchNoise x c => exact ⟨_, fun _ => rfl, .inl ⟨rfl, _, rfl⟩⟩
  | latchVol ch a => exact ⟨_, fun _ => rfl, .inl ⟨rfl, _, rfl⟩⟩
  | dataTone x h => exact ⟨_, fun _ => rfl, .inl ⟨rfl, _, rfl⟩⟩
  | dataNoise x c => exact ⟨_, fun _ => rfl, .inl ⟨rfl, _, rfl⟩⟩
  | dataVol x a => exact ⟨_, fun _ => rfl, .inl ⟨rfl, _, rfl⟩⟩
  | reset => exact ⟨_, fun _ => rfl, .inr (.inl ⟨rfl, rfl⟩)⟩
  | tick => exact ⟨_, fun _ => rfl, .inr (.inr (.inl ⟨rfl, rfl⟩))⟩
  | readDigital => exact ⟨_, fun _ => rfl, .inr (.inr (.inr (.inl ⟨.inl rfl, rfl⟩)))⟩
  | readAnalog => exact ⟨_, fun _ => rfl, .inr (.inr (.inr (.inl ⟨.inr rfl, rfl⟩)))⟩
  | setDebug w => exact ⟨_, fun _ => rfl, .inr (.inr (.inr (.inr ⟨w, rfl, rfl⟩)))⟩

/-! ### The cache and the debug register

WRITE and TICK neither read nor write them. -/

theorem writeByte_setOutputDebug (p : Config.Params) (b : Byte) (c : Chip) (o : Vector Level 4) (d : BitVec 3) :
    writeByte p b { c with output := o, debugReg := d } = { writeByte p b c with output := o, debugReg := d } := by
  rw [writeByte, writeByte]
  obtain hv | ⟨hv, hch⟩ | ⟨hv, hch⟩ := latch_cases (selectRegister b c).latch
  · rw [writeRegister_volume _ _ _ hv]
    exact writeRegister_volume p b _ hv
  · rw [writeRegister_noise _ _ _ hv hch]
    exact writeRegister_noise p b _ hv hch
  · rw [writeRegister_tone _ _ _ hv hch]
    exact writeRegister_tone p b _ hv hch

theorem tickChip_setOutputDebug (p : Config.Params) (c : Chip) (o : Vector Level 4) (d : BitVec 3) :
    tickChip p { c with output := o, debugReg := d } = { tickChip p c with output := o, debugReg := d } := rfl

theorem writeByte_setOutput (p : Config.Params) (b : Byte) (c : Chip) (o : Vector Level 4) :
    writeByte p b { c with output := o } = { writeByte p b c with output := o } := by
  refine (writeByte_setOutputDebug p b c o c.debugReg).trans ?_
  rw [← writeByte_debugReg p b c]

theorem writeByte_setDebug (p : Config.Params) (b : Byte) (c : Chip) (d : BitVec 3) :
    writeByte p b { c with debugReg := d } = { writeByte p b c with debugReg := d } := by
  refine (writeByte_setOutputDebug p b c c.output d).trans ?_
  rw [← writeByte_output p b c]

theorem tickChip_setOutput (p : Config.Params) (c : Chip) (o : Vector Level 4) :
    tickChip p { c with output := o } = { tickChip p c with output := o } := by
  refine (tickChip_setOutputDebug p c o c.debugReg).trans ?_
  rw [← tickChip_debugReg p c]

theorem tickChip_setDebug (p : Config.Params) (c : Chip) (d : BitVec 3) :
    tickChip p { c with debugReg := d } = { tickChip p c with debugReg := d } := by
  refine (tickChip_setOutputDebug p c c.output d).trans ?_
  rw [← tickChip_output p c]

/-! ### The stale cache -/

/-- No Result depends on the cache, which a read refreshes first. -/
theorem instrResult_setOutput (i : Instr) (c : Chip) (o : Vector Level 4) :
    instrResult i { c with output := o } = instrResult i c := by
  cases i <;> rfl

theorem outputFresh_refresh (c : Chip) : outputFresh (refresh c) = true := by
  rw [outputFresh, refresh_refresh]
  exact beq_self_eq_true _

/-- Settles O52: WRITE, TICK and SET_DEBUG keep the cache, RESET and the reads do not see it. -/
theorem staleCacheIsInvisible : Obligations.StaleCacheIsInvisible := by
  intro i s o
  obtain ⟨f, hexec, hf⟩ := exec_operation i
  refine ⟨_, _, hexec s, hexec _, (instrResult_setOutput i s.chip o).symm, rfl, ?_, fun hread => ?_⟩
  · obtain ⟨-, b, rfl⟩ | ⟨-, rfl⟩ | ⟨-, rfl⟩ | ⟨-, rfl⟩ | ⟨w, -, rfl⟩ := hf
    · simp only [writeByte_setOutput]
    · rfl
    · simp only [tickChip_setOutput]
    · rfl
    · rfl
  · have hrefresh : ∀ u : State, f u.chip = refresh u.chip := fun u =>
      (complete_inj _ _ _ u).mp ((hexec u).symm.trans (exec_read hread u))
    rw [hrefresh s, hrefresh { s with chip := { s.chip with output := o } }, instrResult_setOutput]
    exact ⟨rfl, outputFresh_refresh s.chip⟩

/-! ### The debug index in normal mode -/

/-- In normal mode REFRESH does not read the debug register's index (R93). -/
theorem refresh_setDebug_of_normalMode {c : Chip} {d : BitVec 3} (hc : testMode c.debugReg = false)
    (hd : testMode d = false) : refresh { c with debugReg := d } = { refresh c with debugReg := d } := by
  have houtput : (refresh { c with debugReg := d }).output = (refresh c).output := by
    rw [refresh_output_of_normalMode hc, refresh_output_of_normalMode (c := { c with debugReg := d }) hd]
  change { c with debugReg := d, output := (refresh { c with debugReg := d }).output } = _
  rw [houtput]
  rfl

/-- In normal mode a term does not read the debug register's index (R96, D16). -/
theorem analogTerm_setDebug_of_normalMode (p : Config.Params) {c : Chip} {d : BitVec 3} (hc : testMode c.debugReg = false)
    (hd : testMode d = false) (i : Channel) : analogTerm p { c with debugReg := d } i = analogTerm p c i := by
  rw [analogTerm, analogTerm, if_neg (ne_true_of_eq_false hc), if_neg (ne_true_of_eq_false hd)]

theorem instrResult_setDebug_of_normalMode (i : Instr) {c : Chip} {d : BitVec 3} (hc : testMode c.debugReg = false)
    (hd : testMode d = false) : instrResult i { c with debugReg := d } = instrResult i c := by
  cases i with
  | readDigital => simp only [instrResult, refresh_setDebug_of_normalMode hc hd, digitalSample]
  | readAnalog =>
    have hterm := analogTerm_setDebug_of_normalMode params (c := refresh c) hc hd
    simp only [instrResult, refresh_setDebug_of_normalMode hc hd, analogSample, hterm]
  | _ => rfl

/-- Settles O51: WRITE and TICK keep the debug register, the reads do not use its index, SET_DEBUG and RESET overwrite it. -/
theorem debugIndexInertInNormalMode : Obligations.DebugIndexInertInNormalMode := by
  intro i s d hs hd
  obtain ⟨f, hexec, hf⟩ := exec_operation i
  refine ⟨_, _, hexec s, hexec _, (instrResult_setDebug_of_normalMode i hs hd).symm, rfl, ?_⟩
  obtain ⟨-, b, rfl⟩ | ⟨-, rfl⟩ | ⟨-, rfl⟩ | ⟨-, rfl⟩ | ⟨w, -, rfl⟩ := hf
  · simp only [writeByte_setDebug]
  · rfl
  · simp only [tickChip_setDebug]
  · simp only [refresh_setDebug_of_normalMode hs hd]
  · rfl

/-! ### The named writers -/

/-- A WRITE requests a clear in bit 0 of the line and leaves bit 1 (R68, R79). -/
theorem writeByte_noiseReset_one (p : Config.Params) (b : Byte) (c : Chip) :
    (writeByte p b c).noiseReset.getLsbD 1 = c.noiseReset.getLsbD 1 := by
  have hline : ∀ line : BitVec 2, (line ||| 0b01).getLsbD 1 = line.getLsbD 1 := by decide
  obtain h | h | h := writeByte_cases p b c
  · rw [h]
    rfl
  · rw [h]
    exact hline _
  · rw [h]
    rfl

/-- Settles O57: each operation's frame, the clauses that name its own transaction excluded. -/
theorem onlyTheNamedWritersWrite : Obligations.OnlyTheNamedWritersWrite := by
  intro i s hreset
  obtain ⟨c, hexec, hc⟩ := exec_cases i s
  refine ⟨_, hexec, ?_⟩
  obtain ⟨htag, b, rfl⟩ | ⟨rfl, -⟩ | ⟨rfl, rfl⟩ | ⟨hread, rfl⟩ | ⟨w, rfl, rfl⟩ := hc
  · exact ⟨fun h => absurd htag h,
      fun _ => ⟨writeByte_counter _ _ _, writeByte_sign _ _ _, writeByte_inverse _ _ _, writeByte_cycle _ _ _,
        writeByte_noise _ _ _, writeByte_noiseUpdate _ _ _, writeByte_noiseReset_one _ _ _⟩,
      fun _ _ => writeByte_output _ _ _, fun _ => writeByte_debugReg _ _ _⟩
  · exact absurd rfl hreset
  · obtain ⟨-, hbit⟩ := tickChip_noiseReset_bits params s.chip
    exact ⟨fun _ => ⟨tickChip_latch _ _, tickChip_volume _ _, tickChip_freq _ _, tickChip_noiseData _ _,
        tickChip_noiseType _ _, fun h => absurd (hbit.symm.trans h) Bool.false_ne_true⟩,
      fun h => absurd rfl h, fun _ _ => tickChip_output _ _, fun _ => tickChip_debugReg _ _⟩
  · exact ⟨fun _ => ⟨rfl, rfl, rfl, rfl, rfl, id⟩, fun _ => ⟨rfl, rfl, rfl, rfl, rfl, rfl, rfl⟩,
      fun hd ha => absurd hread (not_or.mpr ⟨hd, ha⟩), fun _ => rfl⟩
  · exact ⟨fun _ => ⟨rfl, rfl, rfl, rfl, rfl, id⟩, fun _ => ⟨rfl, rfl, rfl, rfl, rfl, rfl, rfl⟩, fun _ _ => rfl,
      fun h => absurd rfl h⟩

end Sys2Proof.Machine
end
